-- ==== Sys2Proof/Word.lean ====
section
/-! DEFINITION. The word types of the machine (spec/10_state.md R20, R25; spec/20_memory.md R50). -/

namespace Sys2Proof

/-- An 8-bit byte, the addressable unit of memory (R50). -/
abbrev Byte := BitVec 8

/-- A 32-bit word: a general-purpose register, an address, an S register, an instruction (R20, R26, R50, R80). -/
abbrev Word := BitVec 32

/-- A 64-bit doubleword: a D register (R25). -/
abbrev DWord := BitVec 64

/-- A 128-bit quadword: a Q register (R27). -/
abbrev QWord := BitVec 128

end Sys2Proof
end

