-- ==== Sys2Proof/Syntax.lean ====
section
/-! DEFINITION. The instruction as data: one constructor per row of spec/opcode_table.json (spec/30_encoding.md R81 to R84,
R94; spec/40_vldm.md R120 to R128, R135). Field names are the diagrams' own. -/

namespace Sys2Proof

/-- The instruction set a word is decoded against, and the value of `CurrentInstrSet()` (R31). -/
inductive ISet where
  | a32
  | t32
deriving DecidableEq, Repr

/-- One row of the opcode table each. `A1`, `T1` are the 64-bit (D register) encodings, `A2`, `T2` the 32-bit (S register)
ones; the A32 rows carry `cond`, the T32 rows do not (R81 to R84). -/
inductive Instr where
  /-- VLDM, VLDMIA (A1), increment after, D registers (R120). -/
  | vldmA1 (cond : BitVec 4) (D W : BitVec 1) (Rn Vd : BitVec 4) (imm8 : BitVec 8)
  /-- VLDMDB (A1), decrement before with writeback, D registers (R121). -/
  | vldmdbA1 (cond : BitVec 4) (D : BitVec 1) (Rn Vd : BitVec 4) (imm8 : BitVec 8)
  /-- VPOP (A1): the words of `vldmA1` with W = 1 and Rn = 1101 (R104, R128). -/
  | vpopA1 (cond : BitVec 4) (D : BitVec 1) (Vd : BitVec 4) (imm8 : BitVec 8)
  /-- UNDEFINED, P U W = 001 (A1) (R94, R135). -/
  | undef001A1 (cond : BitVec 4) (D : BitVec 1) (Rn Vd : BitVec 4) (imm8 : BitVec 8)
  /-- UNDEFINED, P U W = 111 (A1) (R94, R135). -/
  | undef111A1 (cond : BitVec 4) (D : BitVec 1) (Rn Vd : BitVec 4) (imm8 : BitVec 8)
  /-- VLDM, VLDMIA (A2), increment after, S registers (R122). -/
  | vldmA2 (cond : BitVec 4) (D W : BitVec 1) (Rn Vd : BitVec 4) (imm8 : BitVec 8)
  /-- VLDMDB (A2), decrement before with writeback, S registers (R123). -/
  | vldmdbA2 (cond : BitVec 4) (D : BitVec 1) (Rn Vd : BitVec 4) (imm8 : BitVec 8)
  /-- VPOP (A2): the words of `vldmA2` with W = 1 and Rn = 1101 (R104, R128). -/
  | vpopA2 (cond : BitVec 4) (D : BitVec 1) (Vd : BitVec 4) (imm8 : BitVec 8)
  /-- UNDEFINED, P U W = 001 (A2) (R94, R135). -/
  | undef001A2 (cond : BitVec 4) (D : BitVec 1) (Rn Vd : BitVec 4) (imm8 : BitVec 8)
  /-- UNDEFINED, P U W = 111 (A2) (R94, R135). -/
  | undef111A2 (cond : BitVec 4) (D : BitVec 1) (Rn Vd : BitVec 4) (imm8 : BitVec 8)
  /-- VLDM, VLDMIA (T1), increment after, D registers (R124). -/
  | vldmT1 (D W : BitVec 1) (Rn Vd : BitVec 4) (imm8 : BitVec 8)
  /-- VLDMDB (T1), decrement before with writeback, D registers (R125). -/
  | vldmdbT1 (D : BitVec 1) (Rn Vd : BitVec 4) (imm8 : BitVec 8)
  /-- VPOP (T1): the words of `vldmT1` with W = 1 and Rn = 1101 (R104, R128). -/
  | vpopT1 (D : BitVec 1) (Vd : BitVec 4) (imm8 : BitVec 8)
  /-- UNDEFINED, P U W = 001 (T1) (R94, R135). -/
  | undef001T1 (D : BitVec 1) (Rn Vd : BitVec 4) (imm8 : BitVec 8)
  /-- UNDEFINED, P U W = 111 (T1) (R94, R135). -/
  | undef111T1 (D : BitVec 1) (Rn Vd : BitVec 4) (imm8 : BitVec 8)
  /-- VLDM, VLDMIA (T2), increment after, S registers (R126). -/
  | vldmT2 (D W : BitVec 1) (Rn Vd : BitVec 4) (imm8 : BitVec 8)
  /-- VLDMDB (T2), decrement before with writeback, S registers (R127). -/
  | vldmdbT2 (D : BitVec 1) (Rn Vd : BitVec 4) (imm8 : BitVec 8)
  /-- VPOP (T2): the words of `vldmT2` with W = 1 and Rn = 1101 (R104, R128). -/
  | vpopT2 (D : BitVec 1) (Vd : BitVec 4) (imm8 : BitVec 8)
  /-- UNDEFINED, P U W = 001 (T2) (R94, R135). -/
  | undef001T2 (D : BitVec 1) (Rn Vd : BitVec 4) (imm8 : BitVec 8)
  /-- UNDEFINED, P U W = 111 (T2) (R94, R135). -/
  | undef111T2 (D : BitVec 1) (Rn Vd : BitVec 4) (imm8 : BitVec 8)
deriving DecidableEq, Repr

/-- Why the decoder gives a word no meaning: the names of `NotThisPage` in R91, R93 (a refusal, never a fault), and one for
a byte list that ends before the instruction does. -/
inductive Reject where
  /-- A32, bits 31:28 = 1111 (R91 step 1, R93 (a)). -/
  | cond1111
  /-- T32, bits 31:28 are not 1110 (R91 step 1). -/
  | not1110110x
  /-- The fixed bits of the page do not match (R91 steps 2 and 3, R93 (e)). -/
  | otherInstruction
  /-- Double form with imm8 odd, FLDM*X (R91 step 5, R93 (d)). -/
  | fldmx
  /-- P U W = 000, the 64-bit move (R91 step 6, R93 (b)). -/
  | relatedEncodings
  /-- P = 1, W = 0, VLDR (R91 step 7, R93 (c)). -/
  | vldr
  /-- The byte list is shorter than the instruction (the model's own; safe). -/
  | truncated
deriving DecidableEq, Repr

/-- What decoding a word answers: an instruction of this page, or the name of what it is instead. -/
inductive Decoded where
  | ok (i : Instr)
  | reject (x : Reject)
deriving DecidableEq, Repr

end Sys2Proof
end

