-- ==== Sys2Proof/WellFormed.lean ====
section
/-! DEFINITION. Which instruction terms are words of their row: `cond` is not 1111 (spec/30_encoding.md R81, R82), imm8 is even
in the double forms (R81, R83, 90_conflicts C1), and a VLDM term is not one of the words its VPOP row names (R104, R128). -/

namespace Sys2Proof

/-- The diagrams' "!= 1111" (R81, R82). -/
def condOk (cond : BitVec 4) : Bool := cond != 0b1111#4

/-- `imm8<0>` is 0 in A1 and T1 (R81, R83). -/
def imm8Even (imm8 : BitVec 8) : Bool := !imm8.getLsbD 0

/-- The alias condition on an increment-after word: `W == '1' && Rn == '1101'` (R104). -/
def isVpop (W : BitVec 1) (Rn : BitVec 4) : Bool := W == 1#1 && Rn == 0b1101#4

/-- The instruction's term is the decoding of some word of its row. -/
def Instr.wellFormed : Instr → Bool
  | .vldmA1 cond _ W Rn _ imm8 => condOk cond && imm8Even imm8 && !isVpop W Rn
  | .vldmdbA1 cond _ _ _ imm8 => condOk cond && imm8Even imm8
  | .vpopA1 cond _ _ imm8 => condOk cond && imm8Even imm8
  | .undef001A1 cond _ _ _ imm8 => condOk cond && imm8Even imm8
  | .undef111A1 cond _ _ _ imm8 => condOk cond && imm8Even imm8
  | .vldmA2 cond _ W Rn _ _ => condOk cond && !isVpop W Rn
  | .vldmdbA2 cond _ _ _ _ => condOk cond
  | .vpopA2 cond _ _ _ => condOk cond
  | .undef001A2 cond _ _ _ _ => condOk cond
  | .undef111A2 cond _ _ _ _ => condOk cond
  | .vldmT1 _ W Rn _ imm8 => imm8Even imm8 && !isVpop W Rn
  | .vldmdbT1 _ _ _ imm8 => imm8Even imm8
  | .vpopT1 _ _ imm8 => imm8Even imm8
  | .undef001T1 _ _ _ imm8 => imm8Even imm8
  | .undef111T1 _ _ _ imm8 => imm8Even imm8
  | .vldmT2 _ W Rn _ _ => !isVpop W Rn
  | .vldmdbT2 _ _ _ _ => true
  | .vpopT2 _ _ _ => true
  | .undef001T2 _ _ _ _ => true
  | .undef111T2 _ _ _ _ => true

end Sys2Proof
end

