-- ==== Sys2Proof/Decode.lean ====
section
/-! DEFINITION. The decoder of spec/30_encoding.md R91, total on any word and on any bytes (R57, R97), the encoder written from
the diagrams R81 to R84, the rows' masks and matches (spec/opcode_table.json, R94, R120 to R128), and the host's view of it. -/

namespace Sys2Proof

/-- The instruction set a row belongs to (R2). -/
def Instr.iset : Instr → ISet
  | .vldmA1 .. | .vldmdbA1 .. | .vpopA1 .. | .undef001A1 .. | .undef111A1 .. => .a32
  | .vldmA2 .. | .vldmdbA2 .. | .vpopA2 .. | .undef001A2 .. | .undef111A2 .. => .a32
  | .vldmT1 .. | .vldmdbT1 .. | .vpopT1 .. | .undef001T1 .. | .undef111T1 .. => .t32
  | .vldmT2 .. | .vldmdbT2 .. | .vpopT2 .. | .undef001T2 .. | .undef111T2 .. => .t32

/-! ## Fields of a word (R81 to R84, R91 step 4) -/

def fieldCond (w : Word) : BitVec 4 := w.extractLsb' 28 4
def fieldP (w : Word) : BitVec 1 := w.extractLsb' 24 1
def fieldU (w : Word) : BitVec 1 := w.extractLsb' 23 1
def fieldD (w : Word) : BitVec 1 := w.extractLsb' 22 1
def fieldW (w : Word) : BitVec 1 := w.extractLsb' 21 1
def fieldRn (w : Word) : BitVec 4 := w.extractLsb' 16 4
def fieldVd (w : Word) : BitVec 4 := w.extractLsb' 12 4
def fieldFormat (w : Word) : BitVec 4 := w.extractLsb' 8 4
def fieldImm8 (w : Word) : BitVec 8 := w.extractLsb' 0 8

/-- P U W = 010 and 011: VLDM, or VPOP when the alias condition holds (R92, R104), of the encoding chosen by the instruction
set and by `single` (A2, T2). -/
def mkIncrementAfter (iset : ISet) (single : Bool) (cond : BitVec 4) (D W : BitVec 1) (Rn Vd : BitVec 4) (imm8 : BitVec 8) :
    Instr :=
  match iset, single, isVpop W Rn with
  | .a32, false, false => .vldmA1 cond D W Rn Vd imm8
  | .a32, false, true => .vpopA1 cond D Vd imm8
  | .a32, true, false => .vldmA2 cond D W Rn Vd imm8
  | .a32, true, true => .vpopA2 cond D Vd imm8
  | .t32, false, false => .vldmT1 D W Rn Vd imm8
  | .t32, false, true => .vpopT1 D Vd imm8
  | .t32, true, false => .vldmT2 D W Rn Vd imm8
  | .t32, true, true => .vpopT2 D Vd imm8

/-- P U W = 101: VLDMDB (R92). -/
def mkDecrementBefore (iset : ISet) (single : Bool) (cond : BitVec 4) (D : BitVec 1) (Rn Vd : BitVec 4) (imm8 : BitVec 8) :
    Instr :=
  match iset, single with
  | .a32, false => .vldmdbA1 cond D Rn Vd imm8
  | .a32, true => .vldmdbA2 cond D Rn Vd imm8
  | .t32, false => .vldmdbT1 D Rn Vd imm8
  | .t32, true => .vldmdbT2 D Rn Vd imm8

/-- P U W = 001: UNDEFINED (R92, R94). -/
def mkUndef001 (iset : ISet) (single : Bool) (cond : BitVec 4) (D : BitVec 1) (Rn Vd : BitVec 4) (imm8 : BitVec 8) : Instr :=
  match iset, single with
  | .a32, false => .undef001A1 cond D Rn Vd imm8
  | .a32, true => .undef001A2 cond D Rn Vd imm8
  | .t32, false => .undef001T1 D Rn Vd imm8
  | .t32, true => .undef001T2 D Rn Vd imm8

/-- P U W = 111: UNDEFINED (R92, R94). -/
def mkUndef111 (iset : ISet) (single : Bool) (cond : BitVec 4) (D : BitVec 1) (Rn Vd : BitVec 4) (imm8 : BitVec 8) : Instr :=
  match iset, single with
  | .a32, false => .undef111A1 cond D Rn Vd imm8
  | .a32, true => .undef111A2 cond D Rn Vd imm8
  | .t32, false => .undef111T1 D Rn Vd imm8
  | .t32, true => .undef111T2 D Rn Vd imm8

/-- R91 steps 4 to 9, once the form (double or single) is known. -/
def decodeForm (iset : ISet) (single : Bool) (w : Word) : Decoded :=
  if single = false ∧ (fieldImm8 w).getLsbD 0 = true then .reject .fldmx
  else if fieldP w = 0#1 ∧ fieldU w = 0#1 ∧ fieldW w = 0#1 then .reject .relatedEncodings
  else if fieldP w = 1#1 ∧ fieldW w = 0#1 then .reject .vldr
  else if fieldP w = fieldU w ∧ fieldW w = 1#1 then
    if fieldP w = 0#1 then .ok (mkUndef001 iset single (fieldCond w) (fieldD w) (fieldRn w) (fieldVd w) (fieldImm8 w))
    else .ok (mkUndef111 iset single (fieldCond w) (fieldD w) (fieldRn w) (fieldVd w) (fieldImm8 w))
  else if fieldP w = 0#1 then
    .ok (mkIncrementAfter iset single (fieldCond w) (fieldD w) (fieldW w) (fieldRn w) (fieldVd w) (fieldImm8 w))
  else .ok (mkDecrementBefore iset single (fieldCond w) (fieldD w) (fieldRn w) (fieldVd w) (fieldImm8 w))

/-- The decoder of R91 on a 32-bit value: an A32 word, or `hw1:hw2` in T32. -/
def decodeWord (iset : ISet) (w : Word) : Decoded :=
  if iset = .a32 ∧ fieldCond w = 0b1111#4 then .reject .cond1111
  else if iset = .t32 ∧ fieldCond w ≠ 0b1110#4 then .reject .not1110110x
  else if w.extractLsb' 25 3 ≠ 0b110#3 ∨ w.extractLsb' 20 1 ≠ 1#1 then .reject .otherInstruction
  else if fieldFormat w = 0b1011#4 then decodeForm iset false w
  else if fieldFormat w = 0b1010#4 then decodeForm iset true w
  else .reject .otherInstruction

/-! ## Words as bytes (R57; R97 for the length of a T32 instruction) -/

/-- A word's four bytes at ascending addresses: A32 a little-endian word, T32 `hw1` then `hw2`, each a little-endian
halfword. -/
def bytesOfWord (iset : ISet) (w : Word) : List Byte :=
  match iset with
  | .a32 => [w.extractLsb' 0 8, w.extractLsb' 8 8, w.extractLsb' 16 8, w.extractLsb' 24 8]
  | .t32 => [w.extractLsb' 16 8, w.extractLsb' 24 8, w.extractLsb' 0 8, w.extractLsb' 8 8]

/-- The 32-bit value of four bytes at ascending addresses, as R57 orders them. -/
def wordOfTextBytes (iset : ISet) (b0 b1 b2 b3 : Byte) : Word :=
  match iset with
  | .a32 => b3 ++ b2 ++ b1 ++ b0
  | .t32 => (b1 ++ b0) ++ (b3 ++ b2)

/-- R97: `hw1[15:9] == 1110110`, the only first halfword for which the model fetches a second one. -/
def startsThisPage (hw1 : BitVec 16) : Bool := hw1.extractLsb' 9 7 == 0b1110110#7

/-- The decoder on bytes, the first at the lowest address. In T32 a first halfword that is not `1110110x` is refused without
a second one (R97), for the reason R91 gives whatever the second would be. -/
def decode (iset : ISet) (bytes : List Byte) : Decoded :=
  match iset, bytes with
  | .t32, b0 :: b1 :: rest =>
    if startsThisPage (b1 ++ b0) then
      match rest with
      | b2 :: b3 :: _ => decodeWord .t32 (wordOfTextBytes .t32 b0 b1 b2 b3)
      | _ => .reject .truncated
    else decodeWord .t32 (wordOfTextBytes .t32 b0 b1 0 0)
  | .a32, b0 :: b1 :: b2 :: b3 :: _ => decodeWord .a32 (wordOfTextBytes .a32 b0 b1 b2 b3)
  | _, _ => .reject .truncated

/-- A text given as bytes, as the list of 32-bit values of R203 (every instruction is 4 bytes); bytes after the last whole
instruction are dropped. -/
def textOfBytes (iset : ISet) : List Byte → List Word
  | b0 :: b1 :: b2 :: b3 :: rest => wordOfTextBytes iset b0 b1 b2 b3 :: textOfBytes iset rest
  | _ => []

/-! ## The encoder (R81 to R84) -/

/-- The common layout of the four diagrams, most significant field first; `top` is `cond` in A32 and 1110 in T32 (R86). -/
def encodeFields (top : BitVec 4) (P U D W : BitVec 1) (Rn Vd format : BitVec 4) (imm8 : BitVec 8) : Word :=
  top ++ 0b110#3 ++ P ++ U ++ D ++ W ++ 1#1 ++ Rn ++ Vd ++ format ++ imm8

/-- The 32-bit value of an instruction: the A32 word, or `hw1:hw2`. -/
def encode : Instr → Word
  | .vldmA1 cond D W Rn Vd imm8 => encodeFields cond 0 1 D W Rn Vd 0b1011 imm8
  | .vldmdbA1 cond D Rn Vd imm8 => encodeFields cond 1 0 D 1 Rn Vd 0b1011 imm8
  | .vpopA1 cond D Vd imm8 => encodeFields cond 0 1 D 1 0b1101 Vd 0b1011 imm8
  | .undef001A1 cond D Rn Vd imm8 => encodeFields cond 0 0 D 1 Rn Vd 0b1011 imm8
  | .undef111A1 cond D Rn Vd imm8 => encodeFields cond 1 1 D 1 Rn Vd 0b1011 imm8
  | .vldmA2 cond D W Rn Vd imm8 => encodeFields cond 0 1 D W Rn Vd 0b1010 imm8
  | .vldmdbA2 cond D Rn Vd imm8 => encodeFields cond 1 0 D 1 Rn Vd 0b1010 imm8
  | .vpopA2 cond D Vd imm8 => encodeFields cond 0 1 D 1 0b1101 Vd 0b1010 imm8
  | .undef001A2 cond D Rn Vd imm8 => encodeFields cond 0 0 D 1 Rn Vd 0b1010 imm8
  | .undef111A2 cond D Rn Vd imm8 => encodeFields cond 1 1 D 1 Rn Vd 0b1010 imm8
  | .vldmT1 D W Rn Vd imm8 => encodeFields 0b1110 0 1 D W Rn Vd 0b1011 imm8
  | .vldmdbT1 D Rn Vd imm8 => encodeFields 0b1110 1 0 D 1 Rn Vd 0b1011 imm8
  | .vpopT1 D Vd imm8 => encodeFields 0b1110 0 1 D 1 0b1101 Vd 0b1011 imm8
  | .undef001T1 D Rn Vd imm8 => encodeFields 0b1110 0 0 D 1 Rn Vd 0b1011 imm8
  | .undef111T1 D Rn Vd imm8 => encodeFields 0b1110 1 1 D 1 Rn Vd 0b1011 imm8
  | .vldmT2 D W Rn Vd imm8 => encodeFields 0b1110 0 1 D W Rn Vd 0b1010 imm8
  | .vldmdbT2 D Rn Vd imm8 => encodeFields 0b1110 1 0 D 1 Rn Vd 0b1010 imm8
  | .vpopT2 D Vd imm8 => encodeFields 0b1110 0 1 D 1 0b1101 Vd 0b1010 imm8
  | .undef001T2 D Rn Vd imm8 => encodeFields 0b1110 0 0 D 1 Rn Vd 0b1010 imm8
  | .undef111T2 D Rn Vd imm8 => encodeFields 0b1110 1 1 D 1 Rn Vd 0b1010 imm8

/-- The instruction as bytes at ascending addresses (R57). -/
def encodeBytes (i : Instr) : List Byte := bytesOfWord i.iset (encode i)

/-! ## The opcode table's masks and matches (spec/opcode_table.json; R94, R120 to R128) -/

/-- A row's fixed bits: `w` is a word of the row when `w &&& mask = value` (and, in A32, its cond is not 1111). -/
structure RowBits where
  mask : Word
  value : Word
deriving DecidableEq, Repr

/-- `w` has the row's fixed bits. -/
def RowBits.matchesWord (r : RowBits) (w : Word) : Bool := w &&& r.mask == r.value

/-- The mask and match the opcode table prints for the row of an instruction. -/
def Instr.row : Instr → RowBits
  | .vldmA1 .. => ⟨0x0F900F01, 0x0C900B00⟩
  | .vldmdbA1 .. => ⟨0x0FB00F01, 0x0D300B00⟩
  | .vpopA1 .. => ⟨0x0FBF0F01, 0x0CBD0B00⟩
  | .undef001A1 .. => ⟨0x0FB00F01, 0x0C300B00⟩
  | .undef111A1 .. => ⟨0x0FB00F01, 0x0DB00B00⟩
  | .vldmA2 .. => ⟨0x0F900F00, 0x0C900A00⟩
  | .vldmdbA2 .. => ⟨0x0FB00F00, 0x0D300A00⟩
  | .vpopA2 .. => ⟨0x0FBF0F00, 0x0CBD0A00⟩
  | .undef001A2 .. => ⟨0x0FB00F00, 0x0C300A00⟩
  | .undef111A2 .. => ⟨0x0FB00F00, 0x0DB00A00⟩
  | .vldmT1 .. => ⟨0xFF900F01, 0xEC900B00⟩
  | .vldmdbT1 .. => ⟨0xFFB00F01, 0xED300B00⟩
  | .vpopT1 .. => ⟨0xFFBF0F01, 0xECBD0B00⟩
  | .undef001T1 .. => ⟨0xFFB00F01, 0xEC300B00⟩
  | .undef111T1 .. => ⟨0xFFB00F01, 0xEDB00B00⟩
  | .vldmT2 .. => ⟨0xFF900F00, 0xEC900A00⟩
  | .vldmdbT2 .. => ⟨0xFFB00F00, 0xED300A00⟩
  | .vpopT2 .. => ⟨0xFFBF0F00, 0xECBD0A00⟩
  | .undef001T2 .. => ⟨0xFFB00F00, 0xEC300A00⟩
  | .undef111T2 .. => ⟨0xFFB00F00, 0xEDB00A00⟩

/-! ## The host's view of the table (log 6) -/

/-- An instruction's bits as the opcode table numbers them: `nbits` bits, the rest zero. The table numbers a T32 row as the
32-bit value `hw1:hw2`. -/
def tableWord (nbits w : Nat) : Word := BitVec.ofNat 32 (w % 2 ^ nbits)

/-- DESIGN CHOICE (log 6): the table's T32 rows fix bits 31:28 at 1110 and its A32 rows leave them free, so a bare table word
with those bits 1110 is read as T32 and every other one as A32. -/
def tableISet (w : Word) : ISet := if fieldCond w = 0b1110#4 then .t32 else .a32

/-- The instruction the decoder reads from the bytes of a table word. -/
def decodeTableWord (nbits w : Nat) : Option Instr :=
  let v := tableWord nbits w
  match decode (tableISet v) (bytesOfWord (tableISet v) v) with
  | .ok i => some i
  | .reject _ => none

end Sys2Proof
end

