-- ==== Sys2Proof/Config.lean ====
section
/-! DEFINITION. What is fixed for the machine, and the free values: constants with no body, of which nothing can be proved
(spec/00_scope.md R7, R11, R12; spec/92_eei_decisions.md D28). -/

namespace Sys2Proof

/-- The three answers of the SIMD&FP access check (R174). -/
inductive FPAccess where
  | enabled
  | undef
  | hypTrap
deriving DecidableEq, Repr

namespace Machine

/-- Security state (R39). -/
inductive Security where
  | secure
  | nonSecure
deriving DecidableEq, Repr

/-- PE modes (R39). -/
inductive PEMode where
  | user
  | fiq
  | irq
  | supervisor
  | monitor
  | abort
  | hyp
  | undefined
  | system
deriving DecidableEq, Repr

end Machine

/-- What an unlisted address of memory reads as: nothing, it is not mapped (log 4). -/
def Config.unlistedByte : Option Byte := none

/-- FREE VALUE (log 10): the n-th draw of an unknown 32-bit value (R12, U8). -/
opaque Config.freeWord : Nat → Word

/-- FREE VALUE (log 10): which D registers become unknown under the third behaviour of R138 (bit i is `D[i]`). -/
opaque Config.unknownSubset : Nat → BitVec 32

/-- FREE VALUE (log 10): one D register that does become unknown under R138 ("One or more"). -/
opaque Config.unknownOne : Nat → Fin 32

/-- FREE VALUE (log 14): whether the reserved value 10 of CPACR.cp10 denies access (R35, R175) in a Security state and mode. -/
opaque Config.reservedCp10Denies : Machine.Security → Machine.PEMode → Bool

end Sys2Proof
end

