-- ==== Sys2Proof/Machine/State.lean ====
section
/-! DEFINITION. The machine's state (spec/10_state.md), the launch parameters held beside it as plain data (spec/00_scope.md
R7, log 1), the reasons a step stops (spec/60_exceptions.md R170 to R172, R179), and one launch state, `State.reset`. -/

namespace Sys2Proof.Machine

/-- The condition flags (R29). -/
structure Flags where
  n : Bool
  z : Bool
  c : Bool
  v : Bool
deriving DecidableEq, Repr

/-- The inputs of the access check that the page names, and FPEXC (R34 to R39). Read by the outline of R175 only. -/
structure SysRegs where
  cpacr : Word
  nsacr : Word
  hcptr : Word
  fpexc : Word
  security : Security
  mode : PEMode
deriving DecidableEq, Repr

/-- The parameter `FPAccess` (R174): one answer for every state, or the outline of R175 applied to `SysRegs`. -/
inductive FPAccessRule where
  | fixed (a : FPAccess)
  | outline
deriving DecidableEq, Repr

/-- `CUChoice.regs0`: the three behaviours of R137. -/
inductive Regs0Choice where
  | undefined
  | nop
  | noLoad
deriving DecidableEq, Repr

/-- The kinds of Data Abort (R172). -/
inductive AbortKind where
  | alignment
  | access
deriving DecidableEq, Repr

/-- How the third behaviour of R138 ends: it completes, or it ends in one of the faults that R138 says a model of it must
also admit (log 15). -/
inductive UnknownEnd where
  | completes
  | undefined
  | hypTrap
  | dataAbort (kind : AbortKind) (addr : Word)
deriving DecidableEq, Repr

/-- `CUChoice.toomany`: the three behaviours of R138. -/
inductive TooManyChoice where
  | undefined
  | nop
  | unknown (e : UnknownEnd)
deriving DecidableEq, Repr

/-- The parameter `CUChoice` (R7, R137, R138). -/
structure CUChoice where
  regs0 : Regs0Choice
  tooMany : TooManyChoice
deriving DecidableEq, Repr

/-- What a T32 instruction does when `itstate` is not 0: the spec's rule (refuse), or the sketch R33 gives for a modeller who
lifts the refusal (log 13). -/
inductive ITPolicy where
  | refuse
  | execute
deriving DecidableEq, Repr

/-- The parameters of a run (R7, R200, R203): plain data that no instruction changes. `MemMap` is not here: it is the set of
words that `State.mem` lists whole (log 4). -/
structure Launch where
  fpAccess : FPAccessRule
  cu : CUChoice
  itPolicy : ITPolicy
  /-- `w[0]` to `w[N-1]` (R203). -/
  text : List Word
  /-- The base address B of the text (R203). -/
  base : Word
deriving DecidableEq, Repr

/-- Memory: address and byte pairs, addresses strictly rising and below 2^32 (R50); an address not listed is not mapped. -/
abbrev Memory := List Host.Cell

/-- The state of the machine (10_state.md). -/
structure State where
  /-- `R[0]` to `R[14]` (R20); `R[15]` is a view of `pc` (R23). -/
  r : Vector Word 15
  /-- The address of the instruction being executed (R24). -/
  pc : Word
  /-- `D[0]` to `D[31]` (R25); S is a view of it (R26). -/
  d : Vector DWord 32
  flags : Flags
  iset : ISet
  /-- `E == 1`, big-endian data (R32). -/
  e : Bool
  itstate : BitVec 8
  mem : Memory
  sys : SysRegs
  launch : Launch
  /-- The model's own: which of `R[0]` to `R[14]` are unknown (U8). -/
  unknownR : Vector Bool 15
  /-- The model's own: which halves of the D registers are unknown, 2k the low and 2k+1 the high half of `D[k]` (U8). -/
  unknownS : Vector Bool 64
  /-- The model's own: how many draws were taken (R12). -/
  draws : Nat
deriving DecidableEq, Repr

/-- Why the machine stops with an exception. The outcome carries the state of R178 (R179); entry is not modelled. -/
inductive Fault where
  /-- Undefined Instruction (R170): raised by an UNDEFINED encoding, by the access check, by a constrained behaviour. Safe: a
  faulted run is over (R179). -/
  | undefined (at_ : State)
  /-- Hyp trap (R171): raised by the access check, or by the third behaviour of R138. Safe. -/
  | hypTrap (at_ : State)
  /-- Data Abort (R172): raised by a word access of the transfer, or by the third behaviour of R138. Safe for the listed
  registers; unsafe if a chip disturbs registers outside the list (D12). -/
  | dataAbort (kind : AbortKind) (addr : Word) (after : State)
deriving DecidableEq, Repr

/-- Why the model gives a step no meaning (R12 `Refuse`). Each is safe: nothing is proved of a refused run (R205). -/
inductive Refusal where
  /-- An instruction without a meaning, raised by no arm of this model. -/
  | notModelled (mnemonic : String)
  /-- The word is not this page's (R91, R93); raised by the step. -/
  | notThisPage (x : Reject)
  /-- UNPREDICTABLE: PC as base (R136); raised by VLDM, VLDMDB. -/
  | pcAsBase
  /-- T32 with `itstate` not 0 under the spec's own rule (R33); raised by every T32 form. -/
  | itBlock
  /-- The transfer's bytes run past 0xFFFFFFFF into 0 (R61, R133); raised by the transfer. -/
  | addressWrap
  /-- `pc + 4` passes 2^32 (R24); raised by the advance of the pc. -/
  | pcWrap
  /-- `pc` is not aligned for the instruction set (R24); raised by the fetch. -/
  | pcMisaligned
  /-- `pc = B + 4N`: the run has ended (R205); raised by the fetch. -/
  | endOfText
  /-- `pc` is at no instruction of the text (R203); raised by the fetch. -/
  | outsideText
deriving DecidableEq, Repr

/-- Reset values of the system registers: PRESUMED, the family's (log 3). -/
def SysRegs.reset : SysRegs :=
  { cpacr := 0, nsacr := 0, hcptr := 0x000033FF, fpexc := 0, security := .secure, mode := .supervisor }

/-- The parameters `State.reset` is launched with: DESIGN CHOICE (log 2). -/
def Launch.reset : Launch :=
  { fpAccess := .fixed .enabled, cu := { regs0 := .nop, tooMany := .nop }, itPolicy := .refuse, text := [], base := 0 }

/-- One launch state (R43, R200): `itstate` is 0 as R43 says; the spec gives no other value, and every other one is log 2's or
log 3's. -/
def State.reset : State :=
  { r := Vector.replicate _ 0
    pc := 0
    d := Vector.replicate _ 0
    flags := { n := false, z := false, c := false, v := false }
    iset := .a32
    e := false
    itstate := 0
    mem := []
    sys := SysRegs.reset
    launch := Launch.reset
    unknownR := Vector.replicate _ false
    unknownS := Vector.replicate _ false
    draws := 0 }

end Sys2Proof.Machine
end

