-- ==== Sys2Proof/Machine/Flags.lean ====
section
/-! DEFINITION. The condition check (spec/10_state.md R29, R30) and the T32 condition and its advance (R33). No instruction
writes a flag (spec/40_vldm.md R142). -/

namespace Sys2Proof.Machine

/-- The base test of R30, chosen by `c[3:1]`. -/
def condBase (c : BitVec 4) (f : Flags) : Bool :=
  match c.extractLsb' 1 3 with
  | 0b000#3 => f.z
  | 0b001#3 => f.c
  | 0b010#3 => f.n
  | 0b011#3 => f.v
  | 0b100#3 => f.c && !f.z
  | 0b101#3 => f.n == f.v
  | 0b110#3 => f.n == f.v && !f.z
  | _ => true

/-- `CondHolds(c)`: the base test, inverted when `c[0] == 1` and `c != 1111` (R30). -/
def condHolds (c : BitVec 4) (f : Flags) : Bool :=
  if c.getLsbD 0 && c != 0b1111#4 then !condBase c f else condBase c f

/-- Where an instruction's condition comes from: its cond field (A32) or `itstate` (T32). -/
inductive CondSource where
  | field (c : BitVec 4)
  | it
deriving DecidableEq, Repr

/-- The condition of a T32 instruction by the sketch of R33 (log 13): outside an IT block when `itstate[3:0] == 0000`. -/
def itCond (it : BitVec 8) : BitVec 4 :=
  if it.extractLsb' 0 4 = 0#4 then 0b1110#4 else it.extractLsb' 4 4

/-- The step of `itstate` after an instruction, by the sketch of R33 (log 13). -/
def itAdvance (it : BitVec 8) : BitVec 8 :=
  if it.extractLsb' 0 3 = 0#3 then 0#8 else it.extractLsb' 5 3 ++ (it.extractLsb' 0 5 <<< 1)

/-- The current condition `c` of R30, R33; none where the spec refuses the instruction. -/
def currentCond (src : CondSource) (s : State) : Option (BitVec 4) :=
  match src with
  | .field c => some c
  | .it =>
    if s.itstate = 0#8 then some 0b1110#4
    else
      match s.launch.itPolicy with
      | .refuse => none
      | .execute => some (itCond s.itstate)

/-- `itstate` once an instruction has completed: an A32 instruction leaves it (R42), a T32 one advances it (R33). -/
def itAfter (src : CondSource) (it : BitVec 8) : BitVec 8 :=
  match src with
  | .field _ => it
  | .it => itAdvance it

end Sys2Proof.Machine
end

