-- ==== Sys2Proof/Machine/Operands.lean ====
section
/-! DEFINITION. Operand assembly (spec/30_encoding.md R87 to R90): what `EncodingSpecificOperations()` computes from the fields
(spec/40_vldm.md R131), for the two addressing forms (R92) and the two register sizes. -/

namespace Sys2Proof.Machine

/-- `d = UInt(D:Vd)`, A1 and T1 (R87). -/
def firstDouble (D : BitVec 1) (Vd : BitVec 4) : Nat := (D ++ Vd).toNat

/-- `d = UInt(Vd:D)`, A2 and T2 (R87). -/
def firstSingle (D : BitVec 1) (Vd : BitVec 4) : Nat := (Vd ++ D).toNat

/-- `imm32 = ZeroExtend(imm8:'00', 32)` (R88). -/
def offset (imm8 : BitVec 8) : Word := (imm8 ++ 0b00#2).setWidth 32

/-- `regs = UInt(imm8) DIV 2`, A1 and T1 (R89). -/
def countDouble (imm8 : BitVec 8) : Nat := imm8.toNat / 2

/-- `regs = UInt(imm8)`, A2 and T2 (R89). -/
def countSingle (imm8 : BitVec 8) : Nat := imm8.toNat

/-- The values of R90, R87 to R89 by the page's names. -/
structure Operands where
  singleRegs : Bool
  add : Bool
  wback : Bool
  d : Nat
  n : Nat
  imm32 : Word
  regs : Nat
deriving DecidableEq, Repr

/-- A1, T1 operands: `single_regs = FALSE` (R90). -/
def doubleOperands (add wback : Bool) (D : BitVec 1) (Rn Vd : BitVec 4) (imm8 : BitVec 8) : Operands :=
  { singleRegs := false, add := add, wback := wback, d := firstDouble D Vd, n := Rn.toNat, imm32 := offset imm8,
    regs := countDouble imm8 }

/-- A2, T2 operands: `single_regs = TRUE` (R90). -/
def singleOperands (add wback : Bool) (D : BitVec 1) (Rn Vd : BitVec 4) (imm8 : BitVec 8) : Operands :=
  { singleRegs := true, add := add, wback := wback, d := firstSingle D Vd, n := Rn.toNat, imm32 := offset imm8,
    regs := countSingle imm8 }

/-- `regs > 16 || (d+regs) > 32` in the double form, `(d+regs) > 32` in the single form (R138). -/
def Operands.tooMany (o : Operands) : Bool :=
  (!o.singleRegs && decide (16 < o.regs)) || decide (32 < o.d + o.regs)

/-- The start address of the transfer from its base (R132). -/
def Operands.start (o : Operands) (base : Word) : Word := if o.add then base else base - o.imm32

/-- The value written back, from the original base (R132). -/
def Operands.newBase (o : Operands) (base : Word) : Word := if o.add then base + o.imm32 else base - o.imm32

end Sys2Proof.Machine
end

