-- ==== Sys2Proof/Machine/Ops.lean ====
section
/-! DEFINITION. The shared operations: memory, registers and their unknown marks, the read primitive, the access check, the
raising of an exception, the advance of the pc, the fetch, and the step of R130. -/

namespace Sys2Proof.Machine

/-! ## Memory (spec/20_memory.md R50, R62; log 4) -/

/-- The byte at an address; none where the address is not mapped. -/
def Memory.read (m : Memory) (a : Nat) : Option Byte :=
  match m with
  | [] => Config.unlistedByte
  | (a', b) :: rest => if a' = a then some b else Memory.read rest a

/-- The memory with one more byte, in the canonical form; what a launch is built with (no instruction writes memory, R51). -/
def Memory.write (m : Memory) (a : Nat) (b : Byte) : Memory :=
  match m with
  | [] => [(a, b)]
  | (a', b') :: rest =>
    if a < a' then (a, b) :: (a', b') :: rest
    else if a = a' then (a, b) :: rest
    else (a', b') :: Memory.write rest a b

/-- Addresses strictly rise from `lo` on and stay below 2^32. -/
def Memory.wfFrom (lo : Nat) : Memory → Bool
  | [] => true
  | (a, _) :: rest => decide (lo ≤ a) && decide (a < 2 ^ 32) && Memory.wfFrom (a + 1) rest

/-- The canonical form of memory: addresses strictly rising, all 32-bit. No entry can equal what an unlisted address reads as,
since that is not mapped. -/
def Memory.wf (m : Memory) : Bool := Memory.wfFrom 0 m

/-! ## Byte order and the read primitive -/

/-- A word from its four bytes at ascending addresses (R53). -/
def wordOfBytes (e : Bool) (b0 b1 b2 b3 : Byte) : Word :=
  if e then b0 ++ b1 ++ b2 ++ b3 else b3 ++ b2 ++ b1 ++ b0

/-- "Combine the word-aligned words in the correct order for current endianness" (R54). -/
def combineWords (e : Bool) (word1 word2 : Word) : DWord :=
  if e then word1 ++ word2 else word2 ++ word1

/-- The word at an address, when the word is in `MemMap`: all four of its bytes are mapped (R53, R62). -/
def State.wordAt (s : State) (addr : Word) : Option Word :=
  match Memory.read s.mem addr.toNat, Memory.read s.mem (addr.toNat + 1), Memory.read s.mem (addr.toNat + 2),
    Memory.read s.mem (addr.toNat + 3) with
  | some b0, some b1, some b2, some b3 => some (wordOfBytes s.e b0 b1 b2 b3)
  | _, _, _, _ => none

/-- `addr[1:0] == 00` (R52). -/
def wordAligned (addr : Word) : Bool := addr.extractLsb' 0 2 == 0#2

/-- What `MemRead` answers: the word, or the Data Abort it raises. -/
inductive ReadResult (α : Type) where
  | ok (v : α)
  | abort (kind : AbortKind) (addr : Word)
deriving DecidableEq, Repr

/-- `MemRead(addr, 4)` (R52): the alignment test, then the `MemMap` test, then the word. -/
def State.memRead (s : State) (addr : Word) : ReadResult Word :=
  if wordAligned addr then
    match s.wordAt addr with
    | some w => .ok w
    | none => .abort .access addr
  else .abort .alignment addr

/-! ## General-purpose registers (R20 to R24; unknown values U8, log 10) -/

/-- `R[n]` is marked unknown. -/
def State.isUnknownR (s : State) (n : Nat) : Bool := s.unknownR[n]?.getD false

/-- The value a read of `R[n]` gives: `pc + 8` for n = 15 (R23), a fresh draw while the register is unknown (U8), else the
register. -/
def State.valueR (s : State) (n : Nat) : Word :=
  if n = 15 then s.pc + 8
  else if s.isUnknownR n then Config.freeWord s.draws
  else s.r[n]?.getD 0

/-- The state after a read of `R[n]`: the draw, if one was taken, is used up, so that the next one is another. -/
def State.afterReadR (s : State) (n : Nat) : State :=
  if n ≠ 15 ∧ s.isUnknownR n then { s with draws := s.draws + 1 } else s

/-- `R[n] <- v` for n in 0 to 14; the register is known from then on. No form writes `R[15]` (R22, R24). -/
def State.writeR (s : State) (n : Nat) (v : Word) : State :=
  { s with r := s.r.setIfInBounds n v, unknownR := s.unknownR.setIfInBounds n false }

/-- `R[n]` becomes unknown (R138, U8). -/
def State.forgetR (s : State) (n : Nat) : State :=
  { s with unknownR := s.unknownR.setIfInBounds n true }

/-! ## SIMD&FP registers (R25 to R27) -/

/-- Half `h` of the file is marked unknown: h = 2k is the low half of `D[k]`, h = 2k+1 its high half. -/
def State.isUnknownHalf (s : State) (h : Nat) : Bool := s.unknownS[h]?.getD false

/-- `D[i]` as a program may rely on it: none while either half is unknown (R11, U8). -/
def State.readD (s : State) (i : Nat) : Option DWord :=
  if s.isUnknownHalf (2 * i) || s.isUnknownHalf (2 * i + 1) then none else s.d[i]?

/-- `S[i]` for i in 0 to 31, a half of `D[i DIV 2]` (R26); none while that half is unknown. D16 to D31 have no S view. -/
def State.readS (s : State) (i : Nat) : Option Word :=
  if s.isUnknownHalf i || decide (32 ≤ i) then none
  else s.d[i / 2]?.map fun v => if i % 2 = 0 then v.extractLsb' 0 32 else v.extractLsb' 32 32

/-- `Q[k] = D[2k+1]:D[2k]` (R27). -/
def State.readQ (s : State) (k : Nat) : Option QWord :=
  match s.readD (2 * k + 1), s.readD (2 * k) with
  | some hi, some lo => some (hi ++ lo)
  | _, _ => none

/-- `D[i] <- v`: the whole register, known from then on (R28). -/
def State.writeD (s : State) (i : Nat) (v : DWord) : State :=
  { s with
    d := s.d.setIfInBounds i v
    unknownS := (s.unknownS.setIfInBounds (2 * i) false).setIfInBounds (2 * i + 1) false }

/-- A D register with one half replaced: the low half for an even S number, the high half for an odd one (R26). -/
def replaceHalf (i : Nat) (v : DWord) (w : Word) : DWord :=
  if i % 2 = 0 then v.extractLsb' 32 32 ++ w else w ++ v.extractLsb' 0 32

/-- `S[i] <- w`: that half of `D[i DIV 2]`, the other half unchanged (R26). -/
def State.writeS (s : State) (i : Nat) (w : Word) : State :=
  { s with
    d := s.d.setIfInBounds (i / 2) (replaceHalf i (s.d[i / 2]?.getD 0) w)
    unknownS := s.unknownS.setIfInBounds i false }

/-- The marks with `count` halves from `lo` on set. -/
def markHalves (count lo : Nat) (u : Vector Bool 64) : Vector Bool 64 :=
  match count with
  | 0 => u
  | k + 1 => markHalves k (lo + 1) (u.setIfInBounds lo true)

/-- Every register of the list becomes unknown (R141): both halves of each D register, or the listed S registers alone. -/
def State.forgetList (s : State) (o : Operands) : State :=
  { s with
    unknownS :=
      if o.singleRegs then markHalves o.regs o.d s.unknownS else markHalves (2 * o.regs) (2 * o.d) s.unknownS }

/-- The marks with both halves of `D[i]` set for every i below `k` that is in `subset`. -/
def markSubset (subset : BitVec 32) (k : Nat) (u : Vector Bool 64) : Vector Bool 64 :=
  match k with
  | 0 => u
  | i + 1 => markSubset subset i (if subset.getLsbD i then markHalves 2 (2 * i) u else u)

/-- "One or more of the SIMD and floating-point registers are unknown" (R138 (c)): a free, not empty subset of `D[0]` to
`D[31]` becomes unknown. -/
def State.forgetSome (s : State) : State :=
  { s with
    unknownS :=
      markHalves 2 (2 * (Config.unknownOne s.draws).val) (markSubset (Config.unknownSubset s.draws) 32 s.unknownS)
    draws := s.draws + 1 }

/-! ## Raising an exception (R170 to R172, R178, R179; log 8) -/

/-- The exceptions of R170 to R172. -/
inductive Exc where
  | undefined
  | hypTrap
  | dataAbort (kind : AbortKind) (addr : Word)
deriving DecidableEq, Repr

/-- `raise X`: the step ends with `Fault(X)` carrying the state (R179). Exception entry is not modelled, and there is no return
(R180). -/
def raise (x : Exc) (s : State) : Host.Outcome State Fault Refusal :=
  match x with
  | .undefined => .fault (.undefined s)
  | .hypTrap => .fault (.hypTrap s)
  | .dataAbort kind addr => .fault (.dataAbort kind addr s)

/-! ## The access check (R174; the outline of R175, log 14) -/

/-- `cp10` as R175 takes it: 00 in Non-secure state with `NSACR.cp10 == 0`, else `CPACR.cp10`. -/
def effectiveCp10 (y : SysRegs) : BitVec 2 :=
  if y.security = .nonSecure ∧ y.nsacr.getLsbD 10 = false then 0b00#2 else y.cpacr.extractLsb' 20 2

/-- The `cp10` test of R175: never in Hyp mode; 00 denies, 01 denies in User mode, and the reserved 10 is free to deny or not
(log 14). -/
def cp10Denies (y : SysRegs) : Bool :=
  if y.mode = .hyp then false
  else if effectiveCp10 y = 0b00#2 then true
  else if effectiveCp10 y = 0b01#2 then decide (y.mode = .user)
  else if effectiveCp10 y = 0b10#2 then Config.reservedCp10Denies y.security y.mode
  else false

/-- `HCPTR.TCP10 == 1` in a Non-secure mode or in Hyp mode itself (R175). -/
def trapsToHyp (y : SysRegs) : Bool :=
  (decide (y.security = .nonSecure) || decide (y.mode = .hyp)) && y.hcptr.getLsbD 10

/-- The outline of R175 for a PE whose exception levels all use AArch32: the `cp10` test, then `FPEXC.EN`, then the trap. -/
def outlineAccess (y : SysRegs) : FPAccess :=
  if cp10Denies y then .undef
  else if y.fpexc.getLsbD 30 = false then .undef
  else if trapsToHyp y then .hypTrap
  else .enabled

/-- `FPAccess(state)` (R174). -/
def State.fpAccess (s : State) : FPAccess :=
  match s.launch.fpAccess with
  | .fixed a => a
  | .outline => outlineAccess s.sys

/-! ## Completion (R24, R33) -/

/-- `pc <- pc + 4` after an instruction that completes, and the IT state's step in T32; a `pc + 4` that passes 2^32 is refused
(R24, log 9). -/
def complete (src : CondSource) (s : State) : Host.Outcome State Fault Refusal :=
  if s.pc.toNat + 4 < 2 ^ 32 then .next { s with pc := s.pc + 4, itstate := itAfter src s.itstate }
  else .refused .pcWrap

/-! ## The transfer and the writeback (R132) -/

/-- The loop of R132 over S registers: `regs` registers from number `i`, from `address`. -/
def loadSingles (regs i : Nat) (address : Word) (s : State) : ReadResult State :=
  match regs with
  | 0 => .ok s
  | k + 1 =>
    match s.memRead address with
    | .abort kind addr => .abort kind addr
    | .ok w => loadSingles k (i + 1) (address + 4) (s.writeS i w)

/-- The loop of R132 over D registers. -/
def loadDoubles (regs i : Nat) (address : Word) (s : State) : ReadResult State :=
  match regs with
  | 0 => .ok s
  | k + 1 =>
    match s.memRead address with
    | .abort kind addr => .abort kind addr
    | .ok word1 =>
      match s.memRead (address + 4) with
      | .abort kind addr => .abort kind addr
      | .ok word2 => loadDoubles k (i + 1) (address + 8) (s.writeD i (combineWords s.e word1 word2))

/-- The loop of R132. -/
def loadList (o : Operands) (address : Word) (s : State) : ReadResult State :=
  if o.singleRegs then loadSingles o.regs o.d address s else loadDoubles o.regs o.d address s

/-- The bytes `[start, start + imm32)` run past 0xFFFFFFFF into 0 (R61, R133). -/
def wrapsAround (start imm32 : Word) : Bool := decide (2 ^ 32 < start.toNat + imm32.toNat)

/-- The writeback line of R132. -/
def writeBack (o : Operands) (base : Word) (s : State) : State :=
  if o.wback then s.writeR o.n (o.newBase base) else s

/-- Steps 4 and 5 of R130: the address, the loop, the writeback, the advance. A wrap is refused first (R133, log 11); a Data
Abort leaves base and pc and makes the list unknown (R141). -/
def transfer (src : CondSource) (o : Operands) (s : State) : Host.Outcome State Fault Refusal :=
  if wrapsAround (o.start (s.valueR o.n)) o.imm32 then .refused .addressWrap
  else
    match loadList o (o.start (s.valueR o.n)) (s.afterReadR o.n) with
    | .abort kind addr => raise (.dataAbort kind addr) ((s.afterReadR o.n).forgetList o)
    | .ok s' => complete src (writeBack o (s.valueR o.n) s')

/-! ## The step of R130 -/

/-- Step 3 of R130, then steps 4 and 5. -/
def checkedTransfer (src : CondSource) (o : Operands) (s : State) : Host.Outcome State Fault Refusal :=
  match s.fpAccess with
  | .undef => raise .undefined s
  | .hypTrap => raise .hypTrap s
  | .enabled => transfer src o s

/-- `regs == 0` (R137): the behaviour `CUChoice` picks. -/
def noRegisters (src : CondSource) (o : Operands) (s : State) : Host.Outcome State Fault Refusal :=
  match s.launch.cu.regs0 with
  | .undefined => raise .undefined s
  | .nop => complete src s
  | .noLoad => checkedTransfer src o s

/-- The state of R138 (c): some D registers unknown, the base unknown under writeback, nothing else. -/
def State.forgetUnder (s : State) (o : Operands) : State :=
  if o.wback then s.forgetSome.forgetR o.n else s.forgetSome

/-- Too many registers (R138): the behaviour `CUChoice` picks. -/
def tooManyRegisters (src : CondSource) (o : Operands) (s : State) : Host.Outcome State Fault Refusal :=
  match s.launch.cu.tooMany with
  | .undefined => raise .undefined s
  | .nop => complete src s
  | .unknown .completes => complete src (s.forgetUnder o)
  | .unknown .undefined => raise .undefined s
  | .unknown .hypTrap => raise .hypTrap s
  | .unknown (.dataAbort kind addr) => raise (.dataAbort kind addr) (s.forgetUnder o)

/-- Steps 2 to 5 of R130 for a VLDM or VLDMDB word, in the page's order of tests (R136, R137, R138). -/
def passedVldm (src : CondSource) (o : Operands) (s : State) : Host.Outcome State Fault Refusal :=
  if o.n = 15 ∧ (o.wback = true ∨ s.iset ≠ .a32) then .refused .pcAsBase
  else if o.regs = 0 then noRegisters src o s
  else if o.tooMany then tooManyRegisters src o s
  else checkedTransfer src o s

/-- Step 1 of R130: when the condition fails the instruction is a no-operation (R134, log 17); a T32 condition the spec does not give
is refused (R33). -/
def conditional (src : CondSource) (s : State) (passed : Host.Outcome State Fault Refusal) :
    Host.Outcome State Fault Refusal :=
  match currentCond src s with
  | none => .refused .itBlock
  | some c => if condHolds c s.flags then passed else complete src s

/-- The step of R130 for VLDM, VLDMDB and VPOP. -/
def vldm (src : CondSource) (o : Operands) (s : State) : Host.Outcome State Fault Refusal :=
  conditional src s (passedVldm src o s)

/-- The step of R130 for an UNDEFINED word: `if P == U && W == '1' then UNDEFINED` (R135), before every other test. -/
def undefinedWord (src : CondSource) (s : State) : Host.Outcome State Fault Refusal :=
  conditional src s (raise .undefined s)

/-! ## Fetch (R24, R203 to R205) -/

/-- The alignment of an instruction address: 4 in A32, 2 in T32 (R24). -/
def pcAligned (iset : ISet) (pc : Word) : Bool :=
  match iset with
  | .a32 => pc.extractLsb' 0 2 == 0#2
  | .t32 => pc.extractLsb' 0 1 == 0#1

/-- What the fetch answers. -/
inductive Fetched where
  | word (w : Word)
  | refused (r : Refusal)
deriving DecidableEq, Repr

/-- `w[i]` at `pc = B + 4i` (R203); the end of the text at `pc = B + 4N` (R205). -/
def fetch (s : State) : Fetched :=
  if pcAligned s.iset s.pc = false then .refused .pcMisaligned
  else if s.pc.toNat < s.launch.base.toNat ∨ (s.pc.toNat - s.launch.base.toNat) % 4 ≠ 0 then .refused .outsideText
  else
    match s.launch.text[(s.pc.toNat - s.launch.base.toNat) / 4]? with
    | some w => .word w
    | none =>
      if s.pc.toNat = s.launch.base.toNat + 4 * s.launch.text.length then .refused .endOfText else .refused .outsideText

/-- A launch with a text given as bytes from address `base` on (R57, R203). -/
def State.withTextBytes (s : State) (base : Word) (bytes : List Byte) : State :=
  { s with launch := { s.launch with text := textOfBytes s.iset bytes, base := base }, pc := base }

/-- The address at or below `pc` that is aligned for the instruction set. -/
def alignPc (iset : ISet) (pc : Word) : Word :=
  match iset with
  | .a32 => pc.extractLsb' 2 30 ++ 0#2
  | .t32 => pc.extractLsb' 1 31 ++ 0#1

/-- The state with a text of one word at its pc, in the word's instruction set (log 5, log 6). -/
def State.withText1 (s : State) (iset : ISet) (w : Word) : State :=
  { s with
    iset := iset
    pc := alignPc iset s.pc
    launch := { s.launch with text := [w], base := alignPc iset s.pc } }

end Sys2Proof.Machine
end

