-- ==== Sys2Proof/Machine/Vldm.lean ====
section
/-! DEFINITION. The meaning of each row (spec/40_vldm.md R120 to R128, R135): the step of R130 with the row's operands. P and U
choose the addressing form (R92): increment after is `add = TRUE`; decrement before is `add = FALSE` with writeback. -/

namespace Sys2Proof.Machine

/-- VLDM (A1) (R120). -/
def execVldmA1 (cond : BitVec 4) (D W : BitVec 1) (Rn Vd : BitVec 4) (imm8 : BitVec 8) (s : State) :
    Host.Outcome State Fault Refusal :=
  vldm (.field cond) (doubleOperands true (W == 1#1) D Rn Vd imm8) s

/-- VLDMDB (A1) (R121). -/
def execVldmdbA1 (cond : BitVec 4) (D : BitVec 1) (Rn Vd : BitVec 4) (imm8 : BitVec 8) (s : State) :
    Host.Outcome State Fault Refusal :=
  vldm (.field cond) (doubleOperands false true D Rn Vd imm8) s

/-- VPOP (A1): R120 with n = 13 and writeback (R128). -/
def execVpopA1 (cond : BitVec 4) (D : BitVec 1) (Vd : BitVec 4) (imm8 : BitVec 8) (s : State) :
    Host.Outcome State Fault Refusal :=
  vldm (.field cond) (doubleOperands true true D 0b1101#4 Vd imm8) s

/-- UNDEFINED 001 (A1) (R135): the operand fields have no effect. -/
def execUndef001A1 (cond : BitVec 4) (s : State) : Host.Outcome State Fault Refusal :=
  undefinedWord (.field cond) s

/-- UNDEFINED 111 (A1) (R135). -/
def execUndef111A1 (cond : BitVec 4) (s : State) : Host.Outcome State Fault Refusal :=
  undefinedWord (.field cond) s

/-- VLDM (A2) (R122). -/
def execVldmA2 (cond : BitVec 4) (D W : BitVec 1) (Rn Vd : BitVec 4) (imm8 : BitVec 8) (s : State) :
    Host.Outcome State Fault Refusal :=
  vldm (.field cond) (singleOperands true (W == 1#1) D Rn Vd imm8) s

/-- VLDMDB (A2) (R123). -/
def execVldmdbA2 (cond : BitVec 4) (D : BitVec 1) (Rn Vd : BitVec 4) (imm8 : BitVec 8) (s : State) :
    Host.Outcome State Fault Refusal :=
  vldm (.field cond) (singleOperands false true D Rn Vd imm8) s

/-- VPOP (A2): R122 with n = 13 and writeback (R128). -/
def execVpopA2 (cond : BitVec 4) (D : BitVec 1) (Vd : BitVec 4) (imm8 : BitVec 8) (s : State) :
    Host.Outcome State Fault Refusal :=
  vldm (.field cond) (singleOperands true true D 0b1101#4 Vd imm8) s

/-- UNDEFINED 001 (A2) (R135). -/
def execUndef001A2 (cond : BitVec 4) (s : State) : Host.Outcome State Fault Refusal :=
  undefinedWord (.field cond) s

/-- UNDEFINED 111 (A2) (R135). -/
def execUndef111A2 (cond : BitVec 4) (s : State) : Host.Outcome State Fault Refusal :=
  undefinedWord (.field cond) s

/-- VLDM (T1) (R124). -/
def execVldmT1 (D W : BitVec 1) (Rn Vd : BitVec 4) (imm8 : BitVec 8) (s : State) : Host.Outcome State Fault Refusal :=
  vldm .it (doubleOperands true (W == 1#1) D Rn Vd imm8) s

/-- VLDMDB (T1) (R125). -/
def execVldmdbT1 (D : BitVec 1) (Rn Vd : BitVec 4) (imm8 : BitVec 8) (s : State) : Host.Outcome State Fault Refusal :=
  vldm .it (doubleOperands false true D Rn Vd imm8) s

/-- VPOP (T1): R124 with n = 13 and writeback (R128). -/
def execVpopT1 (D : BitVec 1) (Vd : BitVec 4) (imm8 : BitVec 8) (s : State) : Host.Outcome State Fault Refusal :=
  vldm .it (doubleOperands true true D 0b1101#4 Vd imm8) s

/-- UNDEFINED 001 (T1) (R135). -/
def execUndef001T1 (s : State) : Host.Outcome State Fault Refusal :=
  undefinedWord .it s

/-- UNDEFINED 111 (T1) (R135). -/
def execUndef111T1 (s : State) : Host.Outcome State Fault Refusal :=
  undefinedWord .it s

/-- VLDM (T2) (R126). -/
def execVldmT2 (D W : BitVec 1) (Rn Vd : BitVec 4) (imm8 : BitVec 8) (s : State) : Host.Outcome State Fault Refusal :=
  vldm .it (singleOperands true (W == 1#1) D Rn Vd imm8) s

/-- VLDMDB (T2) (R127). -/
def execVldmdbT2 (D : BitVec 1) (Rn Vd : BitVec 4) (imm8 : BitVec 8) (s : State) : Host.Outcome State Fault Refusal :=
  vldm .it (singleOperands false true D Rn Vd imm8) s

/-- VPOP (T2): R126 with n = 13 and writeback (R128). -/
def execVpopT2 (D : BitVec 1) (Vd : BitVec 4) (imm8 : BitVec 8) (s : State) : Host.Outcome State Fault Refusal :=
  vldm .it (singleOperands true true D 0b1101#4 Vd imm8) s

/-- UNDEFINED 001 (T2) (R135). -/
def execUndef001T2 (s : State) : Host.Outcome State Fault Refusal :=
  undefinedWord .it s

/-- UNDEFINED 111 (T2) (R135). -/
def execUndef111T2 (s : State) : Host.Outcome State Fault Refusal :=
  undefinedWord .it s

end Sys2Proof.Machine
end

