-- ==== Sys2Proof/Machine/Dispatch.lean ====
section
/-! DEFINITION. One arm per row of the opcode table: the instruction's meaning. -/

namespace Sys2Proof.Machine

def exec (i : Instr) (s : State) : Host.Outcome State Fault Refusal :=
  match i with
  | .vldmA1 cond D W Rn Vd imm8 => Sys2Proof.Machine.execVldmA1 cond D W Rn Vd imm8 s
  | .vldmdbA1 cond D Rn Vd imm8 => Sys2Proof.Machine.execVldmdbA1 cond D Rn Vd imm8 s
  | .vpopA1 cond D Vd imm8 => Sys2Proof.Machine.execVpopA1 cond D Vd imm8 s
  | .undef001A1 cond _ _ _ _ => Sys2Proof.Machine.execUndef001A1 cond s
  | .undef111A1 cond _ _ _ _ => Sys2Proof.Machine.execUndef111A1 cond s
  | .vldmA2 cond D W Rn Vd imm8 => Sys2Proof.Machine.execVldmA2 cond D W Rn Vd imm8 s
  | .vldmdbA2 cond D Rn Vd imm8 => Sys2Proof.Machine.execVldmdbA2 cond D Rn Vd imm8 s
  | .vpopA2 cond D Vd imm8 => Sys2Proof.Machine.execVpopA2 cond D Vd imm8 s
  | .undef001A2 cond _ _ _ _ => Sys2Proof.Machine.execUndef001A2 cond s
  | .undef111A2 cond _ _ _ _ => Sys2Proof.Machine.execUndef111A2 cond s
  | .vldmT1 D W Rn Vd imm8 => Sys2Proof.Machine.execVldmT1 D W Rn Vd imm8 s
  | .vldmdbT1 D Rn Vd imm8 => Sys2Proof.Machine.execVldmdbT1 D Rn Vd imm8 s
  | .vpopT1 D Vd imm8 => Sys2Proof.Machine.execVpopT1 D Vd imm8 s
  | .undef001T1 _ _ _ _ => Sys2Proof.Machine.execUndef001T1 s
  | .undef111T1 _ _ _ _ => Sys2Proof.Machine.execUndef111T1 s
  | .vldmT2 D W Rn Vd imm8 => Sys2Proof.Machine.execVldmT2 D W Rn Vd imm8 s
  | .vldmdbT2 D Rn Vd imm8 => Sys2Proof.Machine.execVldmdbT2 D Rn Vd imm8 s
  | .vpopT2 D Vd imm8 => Sys2Proof.Machine.execVpopT2 D Vd imm8 s
  | .undef001T2 _ _ _ _ => Sys2Proof.Machine.execUndef001T2 s
  | .undef111T2 _ _ _ _ => Sys2Proof.Machine.execUndef111T2 s

end Sys2Proof.Machine
end

