-- ==== Sys2Proof/Machine/Step.lean ====
section
/-! DEFINITION. One step (spec/70_reset_and_hazards.md R204): fetch at pc, decode by R91, execute. -/

namespace Sys2Proof.Machine

/-- Fetch, decode, execute (R204). -/
def step (s : State) : Host.Outcome State Fault Refusal :=
  match fetch s with
  | .refused r => .refused r
  | .word w =>
    match decodeWord s.iset w with
    | .reject x => .refused (.notThisPage x)
    | .ok i => exec i s

/-- The launch of a one-word text at the pc: the instruction `decodeTableWord nbits w` reads, so that the very next step runs
it (log 5, log 6). -/
def State.withFetchWord (s : State) (nbits w : Nat) : State :=
  s.withText1 (tableISet (tableWord nbits w)) (tableWord nbits w)

end Sys2Proof.Machine
end

