-- ==== Sys2Proof/Machine/Assembly.lean ====
section
/-! DEFINITION. The assembler syntax of spec/30_encoding.md R98 to R103 as data, what it assembles to, and the alias preference
of R104. No step reads this file. -/

namespace Sys2Proof.Machine

/-- The spellings of R98 and R104. -/
inductive Mnemonic where
  | vldm
  | vldmia
  | vldmdb
  | vpop
deriving DecidableEq, Repr

/-- The optional width qualifier `<q>` (R99). -/
inductive Qualifier where
  | narrow
  | wide
deriving DecidableEq, Repr

/-- The suffixes `<c>` of R30, the first the usual one; none for 1111. -/
def condNames (c : BitVec 4) : List String :=
  match c with
  | 0b0000#4 => ["EQ"]
  | 0b0001#4 => ["NE"]
  | 0b0010#4 => ["CS", "HS"]
  | 0b0011#4 => ["CC", "LO"]
  | 0b0100#4 => ["MI"]
  | 0b0101#4 => ["PL"]
  | 0b0110#4 => ["VS"]
  | 0b0111#4 => ["VC"]
  | 0b1000#4 => ["HI"]
  | 0b1001#4 => ["LS"]
  | 0b1010#4 => ["GE"]
  | 0b1011#4 => ["LT"]
  | 0b1100#4 => ["GT"]
  | 0b1101#4 => ["LE"]
  | 0b1110#4 => ["AL", ""]
  | _ => []

/-- One assembly line: `VLDM<c><q><.size> <Rn><!>, <list>` with the optional parts as options (R98). VPOP has no `<Rn>!` of its
own: `base` and `bang` hold what it stands for, SP and true (R104). -/
structure AsmLine where
  mnemonic : Mnemonic
  cond : Option (BitVec 4)
  qualifier : Option Qualifier
  size : Option Nat
  /-- The list holds S registers (`<sreglist>`), not D registers (`<dreglist>`). -/
  single : Bool
  base : Nat
  bang : Bool
  /-- The first register of the list. -/
  first : Nat
  /-- The last register of the list. -/
  last : Nat
deriving DecidableEq, Repr

/-- The number of registers in the list. -/
def AsmLine.count (a : AsmLine) : Nat := a.last + 1 - a.first

/-- "The list must contain at least one register", and a D list at most 16 (R102, R103). -/
def AsmLine.listOk (a : AsmLine) : Bool :=
  decide (a.first ≤ a.last) && decide (a.last < 32) && (a.single || decide (a.count ≤ 16))

/-- `<size>`: "If present, it must be equal to the size in bits, 32 or 64, of the registers being transferred" (R100). -/
def AsmLine.sizeOk (a : AsmLine) : Bool :=
  match a.size with
  | none => true
  | some n => n == if a.single then 32 else 64

/-- The base and `!`: VLDMDB always carries `!` (R98), VPOP is `SP!` (R104), the PC only without writeback and in A32 (R101). -/
def AsmLine.baseOk (iset : ISet) (a : AsmLine) : Bool :=
  decide (a.base < 16) && (a.mnemonic != .vldmdb || a.bang) && (a.mnemonic != .vpop || (a.bang && a.base == 13)) &&
    (a.base != 15 || (!a.bang && iset == .a32))

/-- `<c>`: any suffix of R30 in A32; in T32, which encodes none, only the one that always holds outside an IT block (R99,
log 16). -/
def AsmLine.condOk (iset : ISet) (a : AsmLine) : Bool :=
  match iset, a.cond with
  | _, none => true
  | .a32, some c => c != 0b1111#4
  | .t32, some c => c == 0b1110#4

/-- The D bit and Vd of the first register: `Vd:D` for S registers (R102), `D:Vd` for D registers (R103). -/
def AsmLine.dBit (a : AsmLine) : BitVec 1 := BitVec.ofNat 1 (if a.single then a.first % 2 else a.first / 16)

def AsmLine.vd (a : AsmLine) : BitVec 4 := BitVec.ofNat 4 (if a.single then a.first / 2 else a.first % 16)

/-- `imm8`: the number of registers (R102), or twice it (R103). -/
def AsmLine.imm8 (a : AsmLine) : BitVec 8 := BitVec.ofNat 8 (if a.single then a.count else 2 * a.count)

/-- The instruction a line assembles to; none where the syntax rules forbid the line. `<q>` and `<size>` are encoded nowhere
(R99, R100). -/
def assemble (iset : ISet) (a : AsmLine) : Option Instr :=
  if a.listOk && a.sizeOk && a.baseOk iset && a.condOk iset then
    match a.mnemonic with
    | .vldmdb =>
      some (mkDecrementBefore iset a.single (a.cond.getD 0b1110#4) a.dBit (BitVec.ofNat 4 a.base) a.vd a.imm8)
    | _ =>
      some (mkIncrementAfter iset a.single (a.cond.getD 0b1110#4) a.dBit (if a.bang then 1#1 else 0#1)
        (BitVec.ofNat 4 a.base) a.vd a.imm8)
  else none

/-- A line with no optional part but the condition. -/
def plainLine (mnemonic : Mnemonic) (cond : Option (BitVec 4)) (o : Operands) : AsmLine :=
  { mnemonic := mnemonic, cond := cond, qualifier := none, size := none, single := o.singleRegs, base := o.n,
    bang := o.wback, first := o.d, last := o.d + o.regs - 1 }

/-- The suffix a disassembler prints: none for 1110. -/
def shownCond (cond : BitVec 4) : Option (BitVec 4) := if cond = 0b1110#4 then none else some cond

/-- A line for the operands where the list and the base are ones the syntax can write, else none. -/
def legalLine (mnemonic : Mnemonic) (iset : ISet) (cond : Option (BitVec 4)) (o : Operands) : Option AsmLine :=
  if o.regs = 0 ∨ o.tooMany = true ∨ (o.n = 15 ∧ (o.wback = true ∨ iset ≠ .a32)) then none
  else some (plainLine mnemonic cond o)

/-- The line of an instruction; VPOP where the alias is preferred (R104). None for the UNDEFINED rows, which have no syntax, and
for a list or a base that the syntax cannot write. -/
def disassemble : Instr → Option AsmLine
  | .vldmA1 cond D W Rn Vd imm8 => legalLine .vldmia .a32 (shownCond cond) (doubleOperands true (W == 1#1) D Rn Vd imm8)
  | .vldmdbA1 cond D Rn Vd imm8 => legalLine .vldmdb .a32 (shownCond cond) (doubleOperands false true D Rn Vd imm8)
  | .vpopA1 cond D Vd imm8 => legalLine .vpop .a32 (shownCond cond) (doubleOperands true true D 0b1101#4 Vd imm8)
  | .undef001A1 .. => none
  | .undef111A1 .. => none
  | .vldmA2 cond D W Rn Vd imm8 => legalLine .vldmia .a32 (shownCond cond) (singleOperands true (W == 1#1) D Rn Vd imm8)
  | .vldmdbA2 cond D Rn Vd imm8 => legalLine .vldmdb .a32 (shownCond cond) (singleOperands false true D Rn Vd imm8)
  | .vpopA2 cond D Vd imm8 => legalLine .vpop .a32 (shownCond cond) (singleOperands true true D 0b1101#4 Vd imm8)
  | .undef001A2 .. => none
  | .undef111A2 .. => none
  | .vldmT1 D W Rn Vd imm8 => legalLine .vldmia .t32 none (doubleOperands true (W == 1#1) D Rn Vd imm8)
  | .vldmdbT1 D Rn Vd imm8 => legalLine .vldmdb .t32 none (doubleOperands false true D Rn Vd imm8)
  | .vpopT1 D Vd imm8 => legalLine .vpop .t32 none (doubleOperands true true D 0b1101#4 Vd imm8)
  | .undef001T1 .. => none
  | .undef111T1 .. => none
  | .vldmT2 D W Rn Vd imm8 => legalLine .vldmia .t32 none (singleOperands true (W == 1#1) D Rn Vd imm8)
  | .vldmdbT2 D Rn Vd imm8 => legalLine .vldmdb .t32 none (singleOperands false true D Rn Vd imm8)
  | .vpopT2 D Vd imm8 => legalLine .vpop .t32 none (singleOperands true true D 0b1101#4 Vd imm8)
  | .undef001T2 .. => none
  | .undef111T2 .. => none

end Sys2Proof.Machine
end

