-- ==== Sys2Proof/Safety.lean ====
section
/-! DEFINITION. What claims about runs say: the end of a run (spec/70_reset_and_hazards.md R205), the states a run can be in,
and what one step leaves alone (spec/10_state.md R42, spec/20_memory.md R63). -/

namespace Sys2Proof

open Machine

/-- `pc == B + 4N`: a run ends successfully here (R205). -/
def Machine.State.ended (s : State) : Bool :=
  s.pc.toNat == s.launch.base.toNat + 4 * s.launch.text.length

/-- The state is in its text: `pc = B + 4i` with i at most N (R203, R205). -/
def Machine.State.inText (s : State) : Bool :=
  decide (s.launch.base.toNat ≤ s.pc.toNat) && (s.pc.toNat - s.launch.base.toNat) % 4 == 0 &&
    decide (s.pc.toNat ≤ s.launch.base.toNat + 4 * s.launch.text.length)

/-- How many instructions of the text are still to run. -/
def Machine.State.remaining (s : State) : Nat :=
  (s.launch.base.toNat + 4 * s.launch.text.length - s.pc.toNat) / 4

/-- What a run keeps (an invariant): memory is canonical, pc is aligned for the instruction set and at an instruction of the
text or at its end, and `itstate` is 0 under the spec's own IT rule (R24, R33, R50, R202, R203). -/
structure Machine.State.Inv (s : State) : Prop where
  memory : Memory.wf s.mem = true
  aligned : pcAligned s.iset s.pc = true
  text : s.inText = true
  it : s.launch.itPolicy = .refuse → s.itstate = 0#8

/-- `t` agrees with `s` on everything that no instruction of this page writes (R31, R32, R34, R42, R51, R142, R182). -/
structure Machine.State.SameFixed (s t : State) : Prop where
  flags : t.flags = s.flags
  iset : t.iset = s.iset
  e : t.e = s.e
  mem : t.mem = s.mem
  sys : t.sys = s.sys
  launch : t.launch = s.launch

end Sys2Proof
end

