-- ==== Sys2Proof/Certificates/Slice0/Obligations.lean ====
section
/-! DEFINITION. The statements for the provers, and the vocabulary they are written in: what the spec's rules say of an
instruction, computed afresh from its fields and from the bytes of memory, not by the functions the meanings call. -/

namespace Sys2Proof.Spec

open Sys2Proof.Machine

/-! ## What a row's decode pseudocode computes (R87 to R90, R120 to R128) -/

/-- The values of a form: its condition's source, the register size, the addressing form, and the numbers of R87 to R89. -/
structure Form where
  src : CondSource
  double : Bool
  add : Bool
  wback : Bool
  first : Nat
  count : Nat
  n : Nat
  bytes : Nat

/-- A1, T1: `d = 16*D + Vd`, `regs = imm8 DIV 2`, `imm32 = 4*imm8` (R87, R88, R89). -/
def doubleForm (src : CondSource) (add wback : Bool) (D : BitVec 1) (Rn Vd : BitVec 4) (imm8 : BitVec 8) : Form :=
  { src := src, double := true, add := add, wback := wback, first := 16 * D.toNat + Vd.toNat, count := imm8.toNat / 2,
    n := Rn.toNat, bytes := 4 * imm8.toNat }

/-- A2, T2: `d = 2*Vd + D`, `regs = imm8`, `imm32 = 4*imm8` (R87, R88, R89). -/
def singleForm (src : CondSource) (add wback : Bool) (D : BitVec 1) (Rn Vd : BitVec 4) (imm8 : BitVec 8) : Form :=
  { src := src, double := false, add := add, wback := wback, first := 2 * Vd.toNat + D.toNat, count := imm8.toNat,
    n := Rn.toNat, bytes := 4 * imm8.toNat }

/-- The form of each VLDM, VLDMDB and VPOP row; none for the UNDEFINED rows. -/
def loadForm : Instr → Option Form
  | .vldmA1 c D W Rn Vd imm8 => some (doubleForm (.field c) true (W == 1#1) D Rn Vd imm8)
  | .vldmdbA1 c D Rn Vd imm8 => some (doubleForm (.field c) false true D Rn Vd imm8)
  | .vpopA1 c D Vd imm8 => some (doubleForm (.field c) true true D 13#4 Vd imm8)
  | .vldmA2 c D W Rn Vd imm8 => some (singleForm (.field c) true (W == 1#1) D Rn Vd imm8)
  | .vldmdbA2 c D Rn Vd imm8 => some (singleForm (.field c) false true D Rn Vd imm8)
  | .vpopA2 c D Vd imm8 => some (singleForm (.field c) true true D 13#4 Vd imm8)
  | .vldmT1 D W Rn Vd imm8 => some (doubleForm .it true (W == 1#1) D Rn Vd imm8)
  | .vldmdbT1 D Rn Vd imm8 => some (doubleForm .it false true D Rn Vd imm8)
  | .vpopT1 D Vd imm8 => some (doubleForm .it true true D 13#4 Vd imm8)
  | .vldmT2 D W Rn Vd imm8 => some (singleForm .it true (W == 1#1) D Rn Vd imm8)
  | .vldmdbT2 D Rn Vd imm8 => some (singleForm .it false true D Rn Vd imm8)
  | .vpopT2 D Vd imm8 => some (singleForm .it true true D 13#4 Vd imm8)
  | .undef001A1 .. | .undef111A1 .. | .undef001A2 .. | .undef111A2 .. => none
  | .undef001T1 .. | .undef111T1 .. | .undef001T2 .. | .undef111T2 .. => none

/-- The rows of R94. -/
def isUndefinedRow : Instr → Bool
  | .undef001A1 .. | .undef111A1 .. | .undef001A2 .. | .undef111A2 .. => true
  | .undef001T1 .. | .undef111T1 .. | .undef001T2 .. | .undef111T2 .. => true
  | .vldmA1 .. | .vldmdbA1 .. | .vpopA1 .. | .vldmA2 .. | .vldmdbA2 .. | .vpopA2 .. => false
  | .vldmT1 .. | .vldmdbT1 .. | .vpopT1 .. | .vldmT2 .. | .vldmdbT2 .. | .vpopT2 .. => false

/-- The rows of R128. -/
def isVpopRow : Instr → Bool
  | .vpopA1 .. | .vpopA2 .. | .vpopT1 .. | .vpopT2 .. => true
  | .vldmA1 .. | .vldmdbA1 .. | .vldmA2 .. | .vldmdbA2 .. | .vldmT1 .. | .vldmdbT1 .. | .vldmT2 .. | .vldmdbT2 .. => false
  | .undef001A1 .. | .undef111A1 .. | .undef001A2 .. | .undef111A2 .. => false
  | .undef001T1 .. | .undef111T1 .. | .undef001T2 .. | .undef111T2 .. => false

/-- Where a row's condition comes from: the cond field in A32, `itstate` in T32 (R30). -/
def srcOf : Instr → CondSource
  | .vldmA1 c .. | .vldmdbA1 c .. | .vpopA1 c .. | .undef001A1 c .. | .undef111A1 c .. => .field c
  | .vldmA2 c .. | .vldmdbA2 c .. | .vpopA2 c .. | .undef001A2 c .. | .undef111A2 c .. => .field c
  | .vldmT1 .. | .vldmdbT1 .. | .vpopT1 .. | .undef001T1 .. | .undef111T1 .. => .it
  | .vldmT2 .. | .vldmdbT2 .. | .vpopT2 .. | .undef001T2 .. | .undef111T2 .. => .it

/-! ## Conditions -/

/-- The condition passes (R30, R33): by the cond field; in T32 outside an IT block, or by the sketch of R33 where the launch
executes IT blocks (log 13). -/
def Passes (src : CondSource) (s : State) : Prop :=
  match src with
  | .field c => condHolds c s.flags = true
  | .it =>
    s.itstate = 0#8 ∨
      (s.launch.itPolicy = .execute ∧
        (s.itstate.extractLsb' 0 4 = 0#4 ∨ condHolds (s.itstate.extractLsb' 4 4) s.flags = true))

/-- The condition fails. -/
def Fails (src : CondSource) (s : State) : Prop :=
  match src with
  | .field c => condHolds c s.flags = false
  | .it =>
    s.itstate ≠ 0#8 ∧ s.launch.itPolicy = .execute ∧ s.itstate.extractLsb' 0 4 ≠ 0#4 ∧
      condHolds (s.itstate.extractLsb' 4 4) s.flags = false

/-- `itstate` after an instruction that completes: A32 leaves it; T32 clears it when its low three bits are 0, else shifts its
low five bits left by one (R33, R42). -/
def nextIt (src : CondSource) (it : BitVec 8) : BitVec 8 :=
  match src with
  | .field _ => it
  | .it => if it &&& 0x07#8 = 0#8 then 0#8 else (it &&& 0xE0#8) ||| ((it <<< 1) &&& 0x1F#8)

/-- Nothing but the advance: `pc + 4`, and the IT step in T32. -/
def advanced (src : CondSource) (s : State) : State := { s with pc := s.pc + 4, itstate := nextIt src s.itstate }

/-! ## Addresses and memory -/

/-- The base (R23, R132): `pc + 8` for n = 15, a draw while `R[n]` is unknown (U8), else the register. -/
def baseOf (s : State) (n : Nat) : Word :=
  if n = 15 then s.pc + 8 else if s.unknownR[n]? = some true then Config.freeWord s.draws else (s.r[n]?).getD 0

/-- The start address (R132). -/
def startOf (f : Form) (s : State) : Word :=
  if f.add then baseOf s f.n else baseOf s f.n - BitVec.ofNat 32 f.bytes

/-- The value written back, from the original base (R132). -/
def newBaseOf (f : Form) (s : State) : Word :=
  if f.add then baseOf s f.n + BitVec.ofNat 32 f.bytes else baseOf s f.n - BitVec.ofNat 32 f.bytes

/-- The byte at an address that is mapped. -/
def byteAt (s : State) (a : Nat) : Byte := (Memory.read s.mem a).getD 0

/-- The address is mapped. -/
def mappedAt (s : State) (a : Nat) : Bool := (Memory.read s.mem a).isSome

/-- A word in the current endianness (R53). -/
def wordOf (s : State) (a : Nat) : Word :=
  if s.e then byteAt s a ++ byteAt s (a + 1) ++ byteAt s (a + 2) ++ byteAt s (a + 3)
  else byteAt s (a + 3) ++ byteAt s (a + 2) ++ byteAt s (a + 1) ++ byteAt s a

/-- Eight bytes as one 64-bit number in the current endianness (R54). -/
def dwordOf (s : State) (a : Nat) : DWord :=
  if s.e then
    byteAt s a ++ byteAt s (a + 1) ++ byteAt s (a + 2) ++ byteAt s (a + 3) ++ byteAt s (a + 4) ++ byteAt s (a + 5) ++
      byteAt s (a + 6) ++ byteAt s (a + 7)
  else
    byteAt s (a + 7) ++ byteAt s (a + 6) ++ byteAt s (a + 5) ++ byteAt s (a + 4) ++ byteAt s (a + 3) ++ byteAt s (a + 2) ++
      byteAt s (a + 1) ++ byteAt s a

/-! ## Premises on operands and state -/

/-- The list is not too long (the test of R138 is false). -/
def Fits (f : Form) : Prop := (f.double = true → f.count ≤ 16) ∧ f.first + f.count ≤ 32

/-- The list is a legal one (R102, R103): at least one register, not too many. -/
def Legal (f : Form) : Prop := 1 ≤ f.count ∧ Fits f

/-- The PC is the base only in A32 and without writeback (R136 does not apply). -/
def BaseOk (f : Form) (s : State) : Prop := f.n = 15 → f.wback = false ∧ s.iset = .a32

/-- The transfer does not run past the top of the address space (R61, R133). -/
def NoWrap (f : Form) (s : State) : Prop := (startOf f s).toNat + f.bytes ≤ 2 ^ 32

/-- Every byte of the transfer is mapped (R62). -/
def AllMapped (f : Form) (s : State) : Prop := ∀ k < f.bytes, mappedAt s ((startOf f s).toNat + k) = true

/-- What R130 and R202 ask for the transfer and the writeback of an instruction to be done. -/
structure Transfers (f : Form) (s : State) : Prop where
  passes : Passes f.src s
  base : BaseOk f s
  legal : Legal f
  access : s.fpAccess = .enabled
  aligned : (startOf f s).toNat % 4 = 0
  noWrap : NoWrap f s
  mapped : AllMapped f s

/-- What R130 and R202 ask for an instruction to execute normally: the transfer is done, and pc can advance (R24). -/
structure RunsNormally (f : Form) (s : State) : Prop extends Transfers f s where
  pc : s.pc.toNat + 4 < 2 ^ 32

/-- The constrained behaviours of R137 and R138 that end in an advance of pc: `regs == 0` as a NOP, or as a VLDM that loads no
registers where access is enabled; too many registers as a NOP, or with registers unknown and no fault (log 15). -/
def ConstrainedAdvance (f : Form) (s : State) : Prop :=
  Passes f.src s ∧ BaseOk f s ∧
    (f.count = 0 ∧ (s.launch.cu.regs0 = .nop ∨ (s.launch.cu.regs0 = .noLoad ∧ s.fpAccess = .enabled)) ∨
      f.count ≠ 0 ∧ ¬ Fits f ∧ (s.launch.cu.tooMany = .nop ∨ s.launch.cu.tooMany = .unknown .completes))

/-- A line that R98 to R103 allow: 1 to 32 consecutive registers up to number 31, at most 16 of them D registers (R102, R103);
`<size>` absent or that of the registers (R100); VLDMDB with `!` (R98), VPOP with SP and `!` (R104), the PC only without `!` and
in A32 (R101); a condition of R30 in A32, AL or none in T32 (R99, log 16). -/
structure AllowedLine (iset : ISet) (a : AsmLine) : Prop where
  ordered : a.first ≤ a.last
  last : a.last ≤ 31
  doubles : a.single = false → a.last + 1 - a.first ≤ 16
  size : ∀ n, a.size = some n → n = if a.single then 32 else 64
  base : a.base ≤ 15
  decrement : a.mnemonic = .vldmdb → a.bang = true
  pop : a.mnemonic = .vpop → a.bang = true ∧ a.base = 13
  pcBase : a.base = 15 → a.bang = false ∧ iset = .a32
  cond : ∀ c, a.cond = some c → (iset = .a32 → c ≠ 0b1111#4) ∧ (iset = .t32 → c = 0b1110#4)

/-! ## Results and frames -/

/-- Half `h` of the SIMD&FP file: the low half of `D[h / 2]` for an even `h`, its high half for an odd one. -/
def half (s : State) (h : Nat) : Option Word := (s.d[h / 2]?).map fun v => v.extractLsb' (32 * (h % 2)) 32

/-- Half `h` belongs to a register of the list (R26, R28). -/
def inList (f : Form) (h : Nat) : Prop :=
  if f.double then 2 * f.first ≤ h ∧ h < 2 * (f.first + f.count) else f.first ≤ h ∧ h < f.first + f.count

/-- The half holds what it held, and is known or unknown as it was. -/
def SameHalf (s t : State) (h : Nat) : Prop := half t h = half s h ∧ t.unknownS[h]? = s.unknownS[h]?

/-- The general-purpose register holds what it held, and is known or unknown as it was. -/
def SameR (s t : State) (m : Nat) : Prop := t.r[m]? = s.r[m]? ∧ t.unknownR[m]? = s.unknownR[m]?

/-- What a normal execution leaves (R42, R132): the listed registers loaded, the base written back or not, the pc advanced, and
everything else as it was; a draw is used up when the base was unknown. -/
structure Loaded (f : Form) (s t : State) : Prop where
  doubles : f.double = true → ∀ r < f.count, t.readD (f.first + r) = some (dwordOf s ((startOf f s).toNat + 8 * r))
  singles : f.double = false → ∀ r < f.count, t.readS (f.first + r) = some (wordOf s ((startOf f s).toNat + 4 * r))
  halves : ∀ h, ¬ inList f h → SameHalf s t h
  base : f.wback = true → t.r[f.n]? = some (newBaseOf f s) ∧ t.unknownR[f.n]? = some false
  regs : ∀ m, m ≠ f.n ∨ f.wback = false → SameR s t m
  pc : t.pc = s.pc + 4
  itstate : t.itstate = nextIt f.src s.itstate
  fixed : s.SameFixed t
  draws : t.draws = s.draws + if f.n ≠ 15 ∧ s.unknownR[f.n]? = some true then 1 else 0

/-- The words of this page in an instruction set: R91 steps 1 to 3 pass. -/
def OnPage (iset : ISet) (w : Word) : Prop :=
  (iset = .a32 → w.extractLsb' 28 4 ≠ 0b1111#4) ∧ (iset = .t32 → w.extractLsb' 28 4 = 0b1110#4) ∧
    w.extractLsb' 25 3 = 0b110#3 ∧ w.extractLsb' 20 1 = 1#1 ∧
    (w.extractLsb' 8 4 = 0b1011#4 ∨ w.extractLsb' 8 4 = 0b1010#4)

/-- Bits 11:8 = 1011, the double form. -/
def isDouble (w : Word) : Bool := w.extractLsb' 8 4 == 0b1011#4

/-- P U W of a word. -/
def puw (w : Word) : BitVec 3 := w.extractLsb' 24 1 ++ w.extractLsb' 23 1 ++ w.extractLsb' 21 1

/-- The form that the fields of a word give (R81 to R84, R87 to R90). -/
def formOfBits (iset : ISet) (add wback : Bool) (w : Word) : Form :=
  let src := match iset with
    | .a32 => CondSource.field (w.extractLsb' 28 4)
    | .t32 => .it
  if isDouble w then
    doubleForm src add wback (w.extractLsb' 22 1) (w.extractLsb' 16 4) (w.extractLsb' 12 4) (w.extractLsb' 0 8)
  else singleForm src add wback (w.extractLsb' 22 1) (w.extractLsb' 16 4) (w.extractLsb' 12 4) (w.extractLsb' 0 8)

/-- The word decodes to an instruction of that form. -/
def DecodesTo (iset : ISet) (w : Word) (f : Form) : Prop := ∃ i, decodeWord iset w = .ok i ∧ loadForm i = some f

/-- The word decodes to an UNDEFINED row. -/
def DecodesUndefined (iset : ISet) (w : Word) : Prop := ∃ i, decodeWord iset w = .ok i ∧ isUndefinedRow i = true

/-- The fetch of R203 at the state's pc gives `w`. -/
def Fetches (s : State) (w : Word) : Prop :=
  (s.iset = .a32 → s.pc.toNat % 4 = 0) ∧ (s.iset = .t32 → s.pc.toNat % 2 = 0) ∧
    ∃ i, s.pc.toNat = s.launch.base.toNat + 4 * i ∧ s.launch.text[i]? = some w

end Sys2Proof.Spec

open Sys2Proof Sys2Proof.Machine Sys2Proof.Spec

/-! ## Encoding -/

/-- Decoding an encoded well-formed instruction of any row gives it back, operands and all (R81 to R84, R91). -/
def Obligations.DecodeOfEncodeIsIdentity : Prop :=
  ∀ i : Instr, i.wellFormed = true → decodeWord i.iset (encode i) = .ok i

/-- A word that decodes, decodes to a well-formed instruction of that instruction set whose encoding is the word: no two words
share a meaning and no bit is dropped (R81 to R84, R91). -/
def Obligations.EncodeOfDecodeIsIdentity : Prop :=
  ∀ (iset : ISet) (w : Word) (i : Instr), decodeWord iset w = .ok i →
    i.iset = iset ∧ i.wellFormed = true ∧ encode i = w

/-- The bytes of an instruction as R57 lays them out decode to it, whatever bytes follow. -/
def Obligations.DecodeOfEncodedBytes : Prop :=
  ∀ (i : Instr) (rest : List Byte), i.wellFormed = true → decode i.iset (encodeBytes i ++ rest) = .ok i

/-- A text laid out as bytes by R57 is read back as its words. -/
def Obligations.TextOfBytesReadsWords : Prop :=
  ∀ (iset : ISet) (ws : List Word), textOfBytes iset (ws.flatMap (bytesOfWord iset)) = ws

/-- R92: P U W select the meaning, the same way in all four encodings, and the decoded operands are the word's own fields. -/
def Obligations.PuwSelectsMeaning : Prop :=
  ∀ (iset : ISet) (w : Word), OnPage iset w → (isDouble w = true → w.extractLsb' 0 1 = 0#1) →
    (puw w = 0b000#3 → decodeWord iset w = .reject .relatedEncodings) ∧
    (puw w = 0b001#3 → DecodesUndefined iset w) ∧
    (puw w = 0b010#3 → DecodesTo iset w (formOfBits iset true false w)) ∧
    (puw w = 0b011#3 → DecodesTo iset w (formOfBits iset true true w) ∧
      (w.extractLsb' 16 4 = 0b1101#4 → ∃ i, decodeWord iset w = .ok i ∧ isVpopRow i = true)) ∧
    (puw w = 0b100#3 → decodeWord iset w = .reject .vldr) ∧
    (puw w = 0b101#3 → DecodesTo iset w (formOfBits iset false true w)) ∧
    (puw w = 0b110#3 → decodeWord iset w = .reject .vldr) ∧
    (puw w = 0b111#3 → DecodesUndefined iset w)

/-- R93: a step on a word that the page sends elsewhere refuses it by the name R91 and R93 give: (a) cond 1111 in A32, (b) the
64-bit move, (c) VLDR, (d) FLDM*X, (e) every word that fails steps 1 to 3 of R91. -/
def Obligations.NeighbouringWordsAreRefused : Prop :=
  ∀ (s : State) (w : Word), Fetches s w →
    (s.iset = .a32 → w.extractLsb' 28 4 = 0b1111#4 → step s = .refused (.notThisPage .cond1111)) ∧
    (OnPage s.iset w → (isDouble w = true → w.extractLsb' 0 1 = 0#1) → puw w = 0b000#3 →
      step s = .refused (.notThisPage .relatedEncodings)) ∧
    (OnPage s.iset w → (isDouble w = true → w.extractLsb' 0 1 = 0#1) → w.extractLsb' 24 1 = 1#1 →
      w.extractLsb' 21 1 = 0#1 → step s = .refused (.notThisPage .vldr)) ∧
    (OnPage s.iset w → isDouble w = true → w.extractLsb' 0 1 = 1#1 → step s = .refused (.notThisPage .fldmx)) ∧
    (s.iset = .t32 → w.extractLsb' 28 4 ≠ 0b1110#4 → step s = .refused (.notThisPage .not1110110x)) ∧
    ((s.iset = .a32 → w.extractLsb' 28 4 ≠ 0b1111#4) → (s.iset = .t32 → w.extractLsb' 28 4 = 0b1110#4) →
      ¬ OnPage s.iset w → step s = .refused (.notThisPage .otherInstruction))

/-- R94: the words of the eight masks and matches decode to UNDEFINED rows, and executing one whose condition passes raises the
Undefined Instruction exception. -/
def Obligations.UndefinedMasksRaise : Prop :=
  ∀ w : Word,
    (w.extractLsb' 28 4 ≠ 0b1111#4 →
      (w &&& 0x0FB00F01#32 = 0x0C300B00#32 ∨ w &&& 0x0FB00F01#32 = 0x0DB00B00#32 ∨
        w &&& 0x0FB00F00#32 = 0x0C300A00#32 ∨ w &&& 0x0FB00F00#32 = 0x0DB00A00#32) →
      ∃ i, decodeWord .a32 w = .ok i ∧ ∀ s, Passes (srcOf i) s → exec i s = .fault (.undefined s)) ∧
    ((w &&& 0xFFB00F01#32 = 0xEC300B00#32 ∨ w &&& 0xFFB00F01#32 = 0xEDB00B00#32 ∨
        w &&& 0xFFB00F00#32 = 0xEC300A00#32 ∨ w &&& 0xFFB00F00#32 = 0xEDB00A00#32) →
      ∃ i, decodeWord .t32 w = .ok i ∧ ∀ s, Passes (srcOf i) s → exec i s = .fault (.undefined s))

/-- A word decodes to a row only if it has the fixed bits that the opcode table prints for that row. -/
def Obligations.DecodedWordMatchesItsTableRow : Prop :=
  ∀ (iset : ISet) (w : Word) (i : Instr), decodeWord iset w = .ok i → i.row.matchesWord w = true

/-- Words written out bit by bit from R81 to R84 decode to the instructions they stand for: `VLDMIA R0, D0-D3`,
`VLDMDB R4!, S30-S31`, `VPOP D8-D15`, `VLDMIANE R6!, S5`, and the T32 `VLDMDB R1!, D4-D5` and `VLDMIA R0!, S1-S2`. -/
def Obligations.SampleWordsDecode : Prop :=
  decodeWord .a32 0b1110_110_0_1_0_0_1_0000_0000_1011_00001000#32 = .ok (.vldmA1 14 0 0 0 0 8) ∧
  decodeWord .a32 0b1110_110_1_0_0_1_1_0100_1111_1010_00000010#32 = .ok (.vldmdbA2 14 0 4 15 2) ∧
  decodeWord .a32 0b1110_110_0_1_0_1_1_1101_1000_1011_00010000#32 = .ok (.vpopA1 14 0 8 16) ∧
  decodeWord .a32 0b0001_110_0_1_1_1_1_0110_0010_1010_00000001#32 = .ok (.vldmA2 1 1 1 6 2 1) ∧
  decodeWord .t32 0b1110_110_1_0_0_1_1_0001_0100_1011_00000100#32 = .ok (.vldmdbT1 0 1 4 4) ∧
  decodeWord .t32 0b1110_110_0_1_1_1_1_0000_0000_1010_00000010#32 = .ok (.vldmT2 1 1 0 0 2)

/-- R104: a decoded word is a VPOP row exactly when `P == '0' && U == '1' && W == '1' && Rn == '1101'`; a disassembler prints
VPOP for those rows and no others; `VPOP list` assembles to what `VLDM SP!, list` does; and a VPOP executes as the VLDM row of
the same fields does: it has no encoding and no behaviour of its own. -/
def Obligations.VpopIsAnAlias : Prop :=
  (∀ (iset : ISet) (w : Word) (i : Instr), decodeWord iset w = .ok i →
    (isVpopRow i = true ↔ w.extractLsb' 24 1 = 0#1 ∧ w.extractLsb' 23 1 = 1#1 ∧ w.extractLsb' 21 1 = 1#1 ∧
      w.extractLsb' 16 4 = 0b1101#4)) ∧
  (∀ (i : Instr) (a : AsmLine), disassemble i = some a → (a.mnemonic = .vpop ↔ isVpopRow i = true)) ∧
  (∀ (iset : ISet) (a : AsmLine), a.base = 13 → a.bang = true →
    assemble iset { a with mnemonic := .vpop } = assemble iset { a with mnemonic := .vldm }) ∧
  (∀ (c : BitVec 4) (D : BitVec 1) (Vd : BitVec 4) (imm8 : BitVec 8) (s : State),
    exec (.vpopA1 c D Vd imm8) s = exec (.vldmA1 c D 1 13 Vd imm8) s ∧
    exec (.vpopA2 c D Vd imm8) s = exec (.vldmA2 c D 1 13 Vd imm8) s ∧
    exec (.vpopT1 D Vd imm8) s = exec (.vldmT1 D 1 13 Vd imm8) s ∧
    exec (.vpopT2 D Vd imm8) s = exec (.vldmT2 D 1 13 Vd imm8) s)

/-- R98 to R104: an instruction with a legal list and base disassembles, to a line that the rules allow; every line that the
rules allow assembles, to a well-formed instruction of that set with the line's condition, addressing form, `!` and base in its
word; and assembling the line a disassembler prints gives the instruction back. -/
def Obligations.AssembleOfDisassemble : Prop :=
  (∀ (i : Instr) (f : Form), i.wellFormed = true → loadForm i = some f → Legal f →
    (f.n = 15 → f.wback = false ∧ i.iset = .a32) → ∃ a, disassemble i = some a ∧ AllowedLine i.iset a) ∧
  (∀ (iset : ISet) (a : AsmLine), AllowedLine iset a → ∃ i, assemble iset a = some i ∧ i.iset = iset ∧
    i.wellFormed = true ∧ (encode i).extractLsb' 28 4 = a.cond.getD 0b1110#4 ∧
    ((encode i).extractLsb' 16 4).toNat = a.base ∧
    puw (encode i) = if a.mnemonic = .vldmdb then 0b101#3 else if a.bang then 0b011#3 else 0b010#3) ∧
  (∀ (i : Instr) (a : AsmLine), i.wellFormed = true → disassemble i = some a → assemble i.iset a = some i)

/-- R102, R103: what a register list is encoded as. An assembled list of S registers a to b has `Vd = a DIV 2`, `D = a MOD 2`,
`imm8 = b - a + 1`; a list of D registers has `D = a DIV 16`, `Vd = a MOD 16`, `imm8 = 2 * (b - a + 1)`; both are lists of at
least one register, a D list of at most 16. -/
def Obligations.RegisterListFields : Prop :=
  ∀ (iset : ISet) (a : AsmLine) (i : Instr), assemble iset a = some i →
    1 ≤ a.last + 1 - a.first ∧
    (a.single = true → (encode i).extractLsb' 8 4 = 0b1010#4 ∧ ((encode i).extractLsb' 12 4).toNat = a.first / 2 ∧
      ((encode i).extractLsb' 22 1).toNat = a.first % 2 ∧
      ((encode i).extractLsb' 0 8).toNat = a.last + 1 - a.first) ∧
    (a.single = false → a.last + 1 - a.first ≤ 16 ∧ (encode i).extractLsb' 8 4 = 0b1011#4 ∧
      ((encode i).extractLsb' 22 1).toNat = a.first / 16 ∧ ((encode i).extractLsb' 12 4).toNat = a.first % 16 ∧
      ((encode i).extractLsb' 0 8).toNat = 2 * (a.last + 1 - a.first))

/-! ## Operands, registers, memory -/

/-- R87, R88, R89: `d`, `imm32` and `regs` as numbers; `imm32` is the number of bytes transferred, 8 or 4 for each register. -/
def Obligations.OperandAssembly : Prop :=
  ∀ (D : BitVec 1) (Vd : BitVec 4) (imm8 : BitVec 8),
    firstDouble D Vd = 16 * D.toNat + Vd.toNat ∧ firstSingle D Vd = 2 * Vd.toNat + D.toNat ∧
    (offset imm8).toNat = 4 * imm8.toNat ∧ (offset imm8).toNat = 4 * countSingle imm8 ∧
    (imm8.extractLsb' 0 1 = 0#1 → (offset imm8).toNat = 8 * countDouble imm8) ∧ countDouble imm8 = (imm8.extractLsb' 1 7).toNat ∧
    countSingle imm8 = imm8.toNat

/-- R26: S registers are halves of D registers; a write of one leaves every other one alone, the other half of its D register
included, and there are 32 of them. -/
def Obligations.SRegistersAreHalvesOfD : Prop :=
  (∀ (s : State) (k : Nat) (v : DWord), k < 16 → s.readD k = some v →
    s.readS (2 * k) = some (v.extractLsb' 0 32) ∧ s.readS (2 * k + 1) = some (v.extractLsb' 32 32)) ∧
  (∀ (s : State) (i : Nat) (w : Word), i < 32 →
    (s.writeS i w).readS i = some w ∧ (∀ j, j ≠ i → (s.writeS i w).readS j = s.readS j) ∧
    (∀ k, k ≠ i / 2 → (s.writeS i w).readD k = s.readD k)) ∧
  (∀ (s : State) (i : Nat), 32 ≤ i → s.readS i = none)

/-- R30: the current condition is the cond field in A32, and 1110 in T32 when `itstate == 0`; and the condition table. -/
def Obligations.ConditionTable : Prop :=
  (∀ (c : BitVec 4) (s : State), currentCond (.field c) s = some c ∧ (s.itstate = 0#8 → currentCond .it s = some 0b1110#4)) ∧
  ∀ f : Flags,
    (condHolds 0b0000#4 f = true ↔ f.z = true) ∧ (condHolds 0b0001#4 f = true ↔ f.z = false) ∧
    (condHolds 0b0010#4 f = true ↔ f.c = true) ∧ (condHolds 0b0011#4 f = true ↔ f.c = false) ∧
    (condHolds 0b0100#4 f = true ↔ f.n = true) ∧ (condHolds 0b0101#4 f = true ↔ f.n = false) ∧
    (condHolds 0b0110#4 f = true ↔ f.v = true) ∧ (condHolds 0b0111#4 f = true ↔ f.v = false) ∧
    (condHolds 0b1000#4 f = true ↔ f.c = true ∧ f.z = false) ∧ (condHolds 0b1001#4 f = true ↔ f.c = false ∨ f.z = true) ∧
    (condHolds 0b1010#4 f = true ↔ f.n = f.v) ∧ (condHolds 0b1011#4 f = true ↔ f.n ≠ f.v) ∧
    (condHolds 0b1100#4 f = true ↔ f.z = false ∧ f.n = f.v) ∧ (condHolds 0b1101#4 f = true ↔ f.z = true ∨ f.n ≠ f.v) ∧
    condHolds 0b1110#4 f = true

/-- R52, R53: `MemRead(addr, 4)`: a misaligned address aborts with Alignment, a word that is not mapped whole with Access, and
any other one gives its four bytes in the current endianness. -/
def Obligations.MemReadCases : Prop :=
  ∀ (s : State) (addr : Word),
    (addr.toNat % 4 ≠ 0 → s.memRead addr = .abort .alignment addr) ∧
    (addr.toNat % 4 = 0 →
      ((∃ k < 4, mappedAt s (addr.toNat + k) = false) → s.memRead addr = .abort .access addr) ∧
      ((∀ k < 4, mappedAt s (addr.toNat + k) = true) → s.memRead addr = .ok (wordOf s addr.toNat)))

/-- R55: with `E == 0` loading `D[k]` gives the same registers as loading `S[2k]` and `S[2k+1]` from the same address; with
`E == 1` the two S views are exchanged. A32 (A1 against A2) and T32 (T1 against T2). -/
def Obligations.DRegisterAgainstSPair : Prop :=
  ∀ (c : BitVec 4) (W : BitVec 1) (Rn k : BitVec 4) (s : State) (i j : Instr),
    (i = .vldmA1 c 0 W Rn k 2 ∧ j = .vldmA2 c 0 W Rn k 2) ∨ (i = .vldmT1 0 W Rn k 2 ∧ j = .vldmT2 0 W Rn k 2) →
    RunsNormally (doubleForm (srcOf i) true (W == 1#1) 0 Rn k 2) s →
    ∃ t u, exec i s = .next t ∧ exec j s = .next u ∧
      (s.e = false → ∀ m, t.readD m = u.readD m) ∧
      (s.e = true → t.readS (2 * k.toNat) = u.readS (2 * k.toNat + 1) ∧
        t.readS (2 * k.toNat + 1) = u.readS (2 * k.toNat))

/-! ## Execution -/

/-- R120, R121, R124, R125, R128, R132: VLDM, VLDMDB and VPOP of D registers (A1, T1) complete, and leave exactly what R132 and
R42 say; the draw of an unknown base is log 10's, the step of `itstate` in a launch that executes IT blocks log 13's. -/
def Obligations.DListsLoadAndComplete : Prop :=
  ∀ (i : Instr) (f : Form) (s : State), loadForm i = some f → f.double = true → RunsNormally f s →
    ∃ t, exec i s = .next t ∧ Loaded f s t

/-- R122, R123, R126, R127, R128, R132: VLDM, VLDMDB and VPOP of S registers (A2, T2) complete, and leave exactly what R132 and
R42 say; the draw of an unknown base is log 10's, the step of `itstate` in a launch that executes IT blocks log 13's. -/
def Obligations.SListsLoadAndComplete : Prop :=
  ∀ (i : Instr) (f : Form) (s : State), loadForm i = some f → f.double = false → RunsNormally f s →
    ∃ t, exec i s = .next t ∧ Loaded f s t

/-- R134: an A32 word of any row whose condition fails is a no-operation: only the pc changes. For the UNDEFINED rows and the
cases of R136 to R138, R134 with U9 offers two variants; that these do nothing is the literal one, which the model takes
(log 17). -/
def Obligations.FailedConditionIsNopInA32 : Prop :=
  ∀ (i : Instr) (s : State), i.iset = .a32 → Fails (srcOf i) s → s.pc.toNat + 4 < 2 ^ 32 →
    exec i s = .next { s with pc := s.pc + 4 }

/-- The sketch of R33 (the model's choice to offer it: log 13): where the launch executes IT blocks, a T32 word of any row whose
condition fails is a no-operation that steps `itstate` (for the UNDEFINED rows and the cases of R136 to R138 by the literal
variant of R134: log 17). -/
def Obligations.FailedConditionIsNopInT32 : Prop :=
  ∀ (i : Instr) (s : State), i.iset = .t32 → Fails (srcOf i) s → s.pc.toNat + 4 < 2 ^ 32 →
    exec i s = .next (advanced .it s)

/-- R33: under the spec's own rule (the reset value of the IT policy, log 13) a T32 instruction met with `itstate != 0` is
refused, whichever row it is of and whatever the rest of the state. -/
def Obligations.ItBlockIsRefused : Prop :=
  ∀ (i : Instr) (s : State), i.iset = .t32 → s.itstate ≠ 0#8 → s.launch.itPolicy = .refuse →
    exec i s = .refused .itBlock

/-- R135: the words with P U W = 001 or 111, and no others, decode to UNDEFINED rows; an UNDEFINED row whose condition passes
raises Undefined, whatever D, Rn, Vd, imm8 and the access check are, and the fault carries the state unchanged. -/
def Obligations.UndefinedRowsRaise : Prop :=
  (∀ (iset : ISet) (w : Word) (i : Instr), decodeWord iset w = .ok i →
    (isUndefinedRow i = true ↔ puw w = 0b001#3 ∨ puw w = 0b111#3)) ∧
  ∀ (i : Instr) (s : State), isUndefinedRow i = true → Passes (srcOf i) s → exec i s = .fault (.undefined s)

/-- R136: with Rn = 1111 and writeback, or outside A32, the instruction is refused, before the list and the access check are
looked at. -/
def Obligations.PcAsBaseIsRefused : Prop :=
  ∀ (i : Instr) (f : Form) (s : State), loadForm i = some f → Passes f.src s → f.n = 15 →
    (f.wback = true ∨ s.iset ≠ .a32) → exec i s = .refused .pcAsBase

/-- R137: `regs == 0`. Undefined; or no change but the pc; or a VLDM that loads no registers, where the access check still
applies and a writeback writes `R[n]` with its own value. That `CUChoice` stands in the launch is log 15's choice. That a
writeback over an unknown base writes the value drawn, clears the mark and uses the draw up is the model's choice (log 10), and the
step of `itstate` in a launch that executes IT blocks is log 13's. -/
def Obligations.NoRegistersBehaviours : Prop :=
  ∀ (i : Instr) (f : Form) (s : State), i.wellFormed = true → loadForm i = some f → Passes f.src s → BaseOk f s →
    f.count = 0 →
    (s.launch.cu.regs0 = .undefined → exec i s = .fault (.undefined s)) ∧
    (s.launch.cu.regs0 = .nop → s.pc.toNat + 4 < 2 ^ 32 → exec i s = .next (advanced f.src s)) ∧
    (s.launch.cu.regs0 = .noLoad →
      (s.fpAccess = .undef → exec i s = .fault (.undefined s)) ∧
      (s.fpAccess = .hypTrap → exec i s = .fault (.hypTrap s)) ∧
      (s.fpAccess = .enabled → s.pc.toNat + 4 < 2 ^ 32 →
        ∃ t, exec i s = .next t ∧ Loaded f s t ∧ newBaseOf f s = baseOf s f.n))

/-- R138: too many registers. Undefined; or no change but the pc; or one or more SIMD&FP registers unknown, the base unknown
under writeback, no other general-purpose register changed, and the faults a model of that behaviour must also admit. That an
unknown register is a mark over stored bits that stay (`t.d = s.d`) is the model's bookkeeping (log 10). That `CUChoice` picks
the fault too, and what state its Data Abort carries, is the model's choice (log 15), and the step of
`itstate` in a launch that executes IT blocks is log 13's. -/
def Obligations.TooManyRegistersBehaviours : Prop :=
  ∀ (i : Instr) (f : Form) (s : State), loadForm i = some f → Passes f.src s → BaseOk f s → ¬ Fits f → f.count ≠ 0 →
    (s.launch.cu.tooMany = .undefined → exec i s = .fault (.undefined s)) ∧
    (s.launch.cu.tooMany = .nop → s.pc.toNat + 4 < 2 ^ 32 → exec i s = .next (advanced f.src s)) ∧
    (s.launch.cu.tooMany = .unknown .completes → s.pc.toNat + 4 < 2 ^ 32 →
      ∃ t, exec i s = .next t ∧ (∃ k < 32, t.readD k = none) ∧
        (∀ k < 32, t.readD k = none ∨ t.readD k = s.readD k) ∧ t.d = s.d ∧
        (∀ m, m ≠ f.n ∨ f.wback = false → SameR s t m) ∧ (f.wback = true → t.unknownR[f.n]? = some true) ∧
        t.pc = s.pc + 4 ∧ t.itstate = nextIt f.src s.itstate ∧ s.SameFixed t) ∧
    (s.launch.cu.tooMany = .unknown .undefined → exec i s = .fault (.undefined s)) ∧
    (s.launch.cu.tooMany = .unknown .hypTrap → exec i s = .fault (.hypTrap s)) ∧
    (∀ kind addr, s.launch.cu.tooMany = .unknown (.dataAbort kind addr) →
      ∃ t, exec i s = .fault (.dataAbort kind addr t) ∧ t.pc = s.pc ∧ s.SameFixed t ∧
        ∀ m, m ≠ f.n ∨ f.wback = false → SameR s t m)

/-- R174: the access check is consulted after the condition and the encoding-specific tests and before any memory access:
`Undef` raises Undefined, `HypTrap` raises HypTrap, with the state unchanged and whatever memory and the base are; under
`Enabled` neither is raised and the instruction proceeds; a condition-failed VLDM does not consult it. In T32 a condition fails
only in a launch that executes IT blocks, and the step of `itstate` there is the sketch of R33 (the model's choice: log 13). -/
def Obligations.AccessCheckOutcomes : Prop :=
  ∀ (i : Instr) (f : Form) (s : State), loadForm i = some f →
    (Passes f.src s → BaseOk f s → Legal f →
      (s.fpAccess = .undef → exec i s = .fault (.undefined s)) ∧
      (s.fpAccess = .hypTrap → exec i s = .fault (.hypTrap s)) ∧
      (s.fpAccess = .enabled → ∀ t, exec i s ≠ .fault (.undefined t) ∧ exec i s ≠ .fault (.hypTrap t))) ∧
    (Fails f.src s → s.pc.toNat + 4 < 2 ^ 32 → exec i s = .next (advanced f.src s))

/-- R175, the outline (log 14): what CPACR.cp10, NSACR.cp10, FPEXC.EN and HCPTR.TCP10 do to the access check of a launch that
uses it. Denial by cp10 comes first, then EN, then the trap; Hyp mode does not look at cp10; cp10 = 01 admits every mode but
User. A reserved cp10 of 10 outside Hyp mode is free to deny or not and no more: with EN = 0 it is Undefined as any other
setting, with EN = 1 it is Undefined or what the trap test says. -/
def Obligations.OutlineOfTheAccessCheck : Prop :=
  ∀ s : State, s.launch.fpAccess = .outline →
    (s.sys.mode ≠ .hyp → s.sys.security = .nonSecure → s.sys.nsacr.getLsbD 10 = false → s.fpAccess = .undef) ∧
    (s.sys.mode ≠ .hyp → s.sys.cpacr.extractLsb' 20 2 = 0b00#2 → s.fpAccess = .undef) ∧
    (s.sys.mode = .user → s.sys.cpacr.extractLsb' 20 2 = 0b01#2 → s.fpAccess = .undef) ∧
    (s.sys.fpexc.getLsbD 30 = false → s.fpAccess = .undef) ∧
    (s.sys.mode = .hyp ∨
        ((s.sys.security = .nonSecure → s.sys.nsacr.getLsbD 10 = true) ∧
          (s.sys.cpacr.extractLsb' 20 2 = 0b11#2 ∨ s.sys.cpacr.extractLsb' 20 2 = 0b01#2 ∧ s.sys.mode ≠ .user)) →
      s.sys.fpexc.getLsbD 30 = true →
      (s.sys.security = .nonSecure ∨ s.sys.mode = .hyp → s.sys.hcptr.getLsbD 10 = true → s.fpAccess = .hypTrap) ∧
      (s.sys.security = .secure ∧ s.sys.mode ≠ .hyp ∨ s.sys.hcptr.getLsbD 10 = false → s.fpAccess = .enabled)) ∧
    (s.sys.security = .nonSecure ∨ s.sys.mode = .hyp → s.sys.hcptr.getLsbD 10 = true → s.fpAccess ≠ .enabled) ∧
    (s.sys.security = .secure ∧ s.sys.mode ≠ .hyp ∨ s.sys.hcptr.getLsbD 10 = false → s.fpAccess ≠ .hypTrap)

/-- R141 (with R52 and R177): a transfer that meets a misaligned or unmapped word ends in a Data Abort. The base register and the
pc keep their values, every listed SIMD&FP register becomes unknown, the ones outside the list and all else are unchanged. A
misaligned start is reported as Alignment at the start address; otherwise the report is Access at some unmapped word of the
transfer. -/
def Obligations.DataAbortState : Prop :=
  ∀ (i : Instr) (f : Form) (s : State), i.wellFormed = true → loadForm i = some f → Passes f.src s → BaseOk f s → Legal f →
    s.fpAccess = .enabled → NoWrap f s → ¬ ((startOf f s).toNat % 4 = 0 ∧ AllMapped f s) →
    ∃ kind addr t, exec i s = .fault (.dataAbort kind addr t) ∧
      ((startOf f s).toNat % 4 ≠ 0 → kind = .alignment ∧ addr = startOf f s) ∧
      ((startOf f s).toNat % 4 = 0 → kind = .access ∧
        ∃ k, 4 * k < f.bytes ∧ addr.toNat = (startOf f s).toNat + 4 * k ∧ ∃ b < 4, mappedAt s (addr.toNat + b) = false) ∧
      t.pc = s.pc ∧ t.itstate = s.itstate ∧ t.r = s.r ∧ t.unknownR = s.unknownR ∧ s.SameFixed t ∧
      (∀ h, inList f h → t.unknownS[h]? = some true) ∧ (∀ h, ¬ inList f h → SameHalf s t h)

/-- R61, R133: a transfer whose bytes cross from 0xFFFFFFFF to 0 is refused, whatever is mapped there (that it is refused before
any word is read, an Alignment abort included, is the model's choice: log 11). -/
def Obligations.AddressWrapIsRefused : Prop :=
  ∀ (i : Instr) (f : Form) (s : State), loadForm i = some f → Passes f.src s → BaseOk f s → Legal f →
    s.fpAccess = .enabled → ¬ NoWrap f s → exec i s = .refused .addressWrap

/-- R24: an instruction of any row that would complete, with a `pc + 4` past the top of the address space, is refused: one whose
condition fails (a no-operation by R134; UNDEFINED rows by log 17), a VLDM, VLDMDB or VPOP whose transfer is done, and one whose
constrained behaviour (R137, R138) advances pc. That the advance to exactly 2^32 counts as past it, and that the test stands at
the end of the instruction, is the model's choice (log 9). -/
def Obligations.PcWrapIsRefused : Prop :=
  ∀ (i : Instr) (s : State), 2 ^ 32 ≤ s.pc.toNat + 4 →
    (Fails (srcOf i) s → exec i s = .refused .pcWrap) ∧
    ∀ f, i.wellFormed = true → loadForm i = some f → Transfers f s ∨ ConstrainedAdvance f s → exec i s = .refused .pcWrap

/-- R42: an instruction whose list is not too long and that answers a next state changes only the listed SIMD&FP registers,
`R[n]` when it writes back, and the pc; one that fails its condition changes only the pc. `itstate` keeps its value under the
spec's own IT rule, and steps as in R33's sketch where the launch executes IT blocks (the model's choice to offer: log 13). -/
def Obligations.OnlyListBaseAndPcChange : Prop :=
  ∀ (i : Instr) (f : Form) (s t : State), loadForm i = some f → Fits f → exec i s = .next t →
    (∀ h, ¬ inList f h → SameHalf s t h) ∧ (∀ m, m ≠ f.n ∨ f.wback = false → SameR s t m) ∧
    t.pc = s.pc + 4 ∧ s.SameFixed t ∧ t.itstate = nextIt f.src s.itstate ∧
    (s.launch.itPolicy = .refuse → t.itstate = s.itstate) ∧ (Fails f.src s → t = advanced f.src s)

/-- R142, R51, R31, R32, R34: no row, whatever its operands and the constrained behaviour chosen, writes a flag, memory, the
instruction set, the endianness or a system register, or moves the pc other than by 4; an UNDEFINED row that answers a next
state (its condition failed: log 17) changes nothing else at all, but for the step of `itstate` in a launch that executes IT
blocks (log 13). -/
def Obligations.NoRowWritesFlagsOrMemory : Prop :=
  ∀ (i : Instr) (s t : State), exec i s = .next t →
    s.SameFixed t ∧ t.pc = s.pc + 4 ∧ (∀ a, Memory.read t.mem a = Memory.read s.mem a) ∧
    (isUndefinedRow i = true → t = advanced (srcOf i) s)

/-- R178: Undefined and HypTrap carry the state unchanged; a Data Abort of a list that is not too long leaves pc and every
general-purpose register as they were. -/
def Obligations.FaultsArePrecise : Prop :=
  ∀ (i : Instr) (s t : State),
    (exec i s = .fault (.undefined t) → t = s) ∧ (exec i s = .fault (.hypTrap t) → t = s) ∧
    (∀ (f : Form) kind addr, loadForm i = some f → Fits f → exec i s = .fault (.dataAbort kind addr t) →
      t.pc = s.pc ∧ t.r = s.r ∧ t.unknownR = s.unknownR ∧ s.SameFixed t ∧ ∀ h, inList f h → t.unknownS[h]? = some true)

/-- R86, R130: outside an IT block and with a base other than the PC, a T32 word does what the A32 word of the same bits with
cond = 1110 does. -/
def Obligations.T32ActsAsA32Always : Prop :=
  ∀ (D W : BitVec 1) (Rn Vd : BitVec 4) (imm8 : BitVec 8) (s : State), s.itstate = 0#8 → Rn ≠ 15#4 →
    exec (.vldmT1 D W Rn Vd imm8) s = exec (.vldmA1 14 D W Rn Vd imm8) s ∧
    exec (.vldmdbT1 D Rn Vd imm8) s = exec (.vldmdbA1 14 D Rn Vd imm8) s ∧
    exec (.vpopT1 D Vd imm8) s = exec (.vpopA1 14 D Vd imm8) s ∧
    exec (.undef001T1 D Rn Vd imm8) s = exec (.undef001A1 14 D Rn Vd imm8) s ∧
    exec (.undef111T1 D Rn Vd imm8) s = exec (.undef111A1 14 D Rn Vd imm8) s ∧
    exec (.vldmT2 D W Rn Vd imm8) s = exec (.vldmA2 14 D W Rn Vd imm8) s ∧
    exec (.vldmdbT2 D Rn Vd imm8) s = exec (.vldmdbA2 14 D Rn Vd imm8) s ∧
    exec (.vpopT2 D Vd imm8) s = exec (.vpopA2 14 D Vd imm8) s ∧
    exec (.undef001T2 D Rn Vd imm8) s = exec (.undef001A2 14 D Rn Vd imm8) s ∧
    exec (.undef111T2 D Rn Vd imm8) s = exec (.undef111A2 14 D Rn Vd imm8) s

/-- R143 (c): `VLDMDB Rn!, list` with `R[n] = a` leaves the very state that `VLDMIA Rn, list` with `R[n] = a - imm32` leaves. -/
def Obligations.DecrementBeforeIsIncrementFromLowerBase : Prop :=
  ∀ (c : BitVec 4) (D : BitVec 1) (Rn Vd : BitVec 4) (imm8 : BitVec 8) (s : State) (i j : Instr) (f : Form),
    (i = .vldmdbA1 c D Rn Vd imm8 ∧ j = .vldmA1 c D 0 Rn Vd imm8) ∨
      (i = .vldmdbA2 c D Rn Vd imm8 ∧ j = .vldmA2 c D 0 Rn Vd imm8) ∨
      (i = .vldmdbT1 D Rn Vd imm8 ∧ j = .vldmT1 D 0 Rn Vd imm8) ∨
      (i = .vldmdbT2 D Rn Vd imm8 ∧ j = .vldmT2 D 0 Rn Vd imm8) →
    loadForm i = some f → RunsNormally f s → s.unknownR[Rn.toNat]? = some false →
    ∃ t, exec i s = .next t ∧ exec j (s.writeR Rn.toNat (baseOf s Rn.toNat - BitVec.ofNat 32 (4 * imm8.toNat))) = .next t

/-- R143 (d): `VLDMIA Rn!, list` followed by `VLDMDB Rn!, list` reads the same bytes twice and restores `R[n]` (A1 and A2). -/
def Obligations.IncrementThenDecrementRestoresBase : Prop :=
  ∀ (c : BitVec 4) (D : BitVec 1) (Rn Vd : BitVec 4) (imm8 : BitVec 8) (s : State) (i j : Instr) (f : Form),
    (i = .vldmA1 c D 1 Rn Vd imm8 ∧ j = .vldmdbA1 c D Rn Vd imm8) ∨
      (i = .vldmA2 c D 1 Rn Vd imm8 ∧ j = .vldmdbA2 c D Rn Vd imm8) →
    loadForm i = some f → RunsNormally f s → s.pc.toNat + 8 < 2 ^ 32 →
    ∃ t u, exec i s = .next t ∧ exec j t = .next u ∧ u.d = t.d ∧ u.unknownS = t.unknownS ∧
      u.r[Rn.toNat]? = some (baseOf s Rn.toNat) ∧ (∀ m, m ≠ Rn.toNat → SameR s u m) ∧ u.pc = s.pc + 8 ∧ s.SameFixed u

/-! ## The step and runs -/

/-- R204: one step fetches the word `w[i]` at `pc = B + 4i` (R203) and decodes it by R91; the step refuses where the decoder
refuses, and else is the execution of the decoded instruction at the same state. -/
def Obligations.StepExecutesTheDecodedInstruction : Prop :=
  ∀ (s : State) (w : Word), Fetches s w →
    (∀ i, decodeWord s.iset w = .ok i → step s = exec i s) ∧
    (∀ x, decodeWord s.iset w = .reject x → step s = .refused (.notThisPage x))

/-- R24, R203, R205: a misaligned pc is refused; the end of the text and any pc that is at no instruction of it are refused, so
nothing runs outside the text. -/
def Obligations.NothingRunsOutsideTheText : Prop :=
  ∀ s : State,
    (s.iset = .a32 ∧ s.pc.toNat % 4 ≠ 0 ∨ s.iset = .t32 ∧ s.pc.toNat % 2 ≠ 0 → step s = .refused .pcMisaligned) ∧
    (pcAligned s.iset s.pc = true → s.pc.toNat = s.launch.base.toNat + 4 * s.launch.text.length →
      step s = .refused .endOfText) ∧
    (pcAligned s.iset s.pc = true → s.inText = false → step s = .refused .outsideText)

/-- The host's placing of one instruction (the model's convention: log 5, log 6): the very next step runs the instruction that
the decoder reads from those bits. -/
def Obligations.PlacedWordRuns : Prop :=
  ∀ (s : State) (nbits w : Nat) (i : Instr), decodeTableWord nbits w = some i →
    step (s.withFetchWord nbits w) = exec i (s.withFetchWord nbits w)

/-- The launch state `State.reset` meets the invariant, and has `itstate` 0 as R43 says (its other values are the model's own
choice: log 2, log 3). -/
def Obligations.ResetMeetsTheInvariant : Prop :=
  State.reset.Inv ∧ State.reset.itstate = 0#8

/-- Every step keeps the invariant: memory canonical, pc aligned and in the text or at its end, `itstate` 0 under the spec's IT
rule (R24, R33, R50, R203, R205). -/
def Obligations.StepKeepsTheInvariant : Prop :=
  ∀ s t : State, s.Inv → step s = .next t → t.Inv

/-- R205: a run takes at most as many steps as instructions remain, each step moves the pc by 4, and a run that has taken that
many is at the end of the text. -/
def Obligations.RunsAreFinite : Prop :=
  ∀ (s t : State) (k : Nat), s.Inv → Host.Core.run Sys2Proof.core k s = .next t →
    k ≤ s.remaining ∧ t.pc.toNat = s.pc.toNat + 4 * k ∧ (k = s.remaining ↔ t.ended = true)

/-- R63, R67: memory is constant throughout a run, every read of an address returns the launch value, and so are the text, the
flags, the endianness and the instruction set. -/
def Obligations.MemoryIsConstantInARun : Prop :=
  ∀ (s t : State) (k : Nat), Host.Core.run Sys2Proof.core k s = .next t →
    s.SameFixed t ∧ ∀ a : Word, t.memRead a = s.memRead a
end

