-- ==== Sys2Proof/Laws/Encoding.lean ====
section
/-! SUPPORT. Where the fields of `encodeFields` lie, one lemma per field, and that the fields make up the word. -/

namespace Sys2Proof

/-- Concatenation as a number. -/
theorem toNat_append_add {n m : Nat} (x : BitVec n) (y : BitVec m) : (x ++ y).toNat = x.toNat * 2 ^ m + y.toNat := by
  rw [BitVec.toNat_append, ← Nat.shiftLeft_add_eq_or_of_lt y.isLt, Nat.shiftLeft_eq]

section Fields

variable (top : BitVec 4) (P U D W : BitVec 1) (Rn Vd format : BitVec 4) (imm8 : BitVec 8)

/-- The encoded word as a number. -/
theorem encodeFields_toNat :
    (encodeFields top P U D W Rn Vd format imm8).toNat =
      top.toNat * 2 ^ 28 + 6 * 2 ^ 25 + P.toNat * 2 ^ 24 + U.toNat * 2 ^ 23 + D.toNat * 2 ^ 22 + W.toNat * 2 ^ 21 + 2 ^ 20 +
        Rn.toNat * 2 ^ 16 + Vd.toNat * 2 ^ 12 + format.toNat * 2 ^ 8 + imm8.toNat := by
  unfold encodeFields
  rw [toNat_append_add, toNat_append_add, toNat_append_add, toNat_append_add, toNat_append_add, toNat_append_add,
    toNat_append_add, toNat_append_add, toNat_append_add, toNat_append_add]
  simp only [BitVec.toNat_ofNat]
  omega

/-- A field of the encoded word, when the number says so. -/
theorem extract_encodeFields {k : Nat} (lo : Nat) (x : BitVec k)
    (h : (top.toNat * 2 ^ 28 + 6 * 2 ^ 25 + P.toNat * 2 ^ 24 + U.toNat * 2 ^ 23 + D.toNat * 2 ^ 22 + W.toNat * 2 ^ 21 +
      2 ^ 20 + Rn.toNat * 2 ^ 16 + Vd.toNat * 2 ^ 12 + format.toNat * 2 ^ 8 + imm8.toNat) / 2 ^ lo % 2 ^ k = x.toNat) :
    (encodeFields top P U D W Rn Vd format imm8).extractLsb' lo k = x := by
  apply BitVec.eq_of_toNat_eq
  rw [BitVec.extractLsb'_toNat, encodeFields_toNat, Nat.shiftRight_eq_div_pow, h]

@[simp] theorem encodeFields_top : (encodeFields top P U D W Rn Vd format imm8).extractLsb' 28 4 = top :=
  extract_encodeFields _ _ _ _ _ _ _ _ _ 28 top (by omega)

@[simp] theorem encodeFields_fixed3 : (encodeFields top P U D W Rn Vd format imm8).extractLsb' 25 3 = 0b110#3 :=
  extract_encodeFields _ _ _ _ _ _ _ _ _ 25 0b110#3 (by simp only [BitVec.toNat_ofNat]; omega)

@[simp] theorem encodeFields_P : (encodeFields top P U D W Rn Vd format imm8).extractLsb' 24 1 = P :=
  extract_encodeFields _ _ _ _ _ _ _ _ _ 24 P (by omega)

@[simp] theorem encodeFields_U : (encodeFields top P U D W Rn Vd format imm8).extractLsb' 23 1 = U :=
  extract_encodeFields _ _ _ _ _ _ _ _ _ 23 U (by omega)

@[simp] theorem encodeFields_D : (encodeFields top P U D W Rn Vd format imm8).extractLsb' 22 1 = D :=
  extract_encodeFields _ _ _ _ _ _ _ _ _ 22 D (by omega)

@[simp] theorem encodeFields_W : (encodeFields top P U D W Rn Vd format imm8).extractLsb' 21 1 = W :=
  extract_encodeFields _ _ _ _ _ _ _ _ _ 21 W (by omega)

@[simp] theorem encodeFields_one : (encodeFields top P U D W Rn Vd format imm8).extractLsb' 20 1 = 1#1 :=
  extract_encodeFields _ _ _ _ _ _ _ _ _ 20 1#1 (by simp only [BitVec.toNat_ofNat]; omega)

@[simp] theorem encodeFields_Rn : (encodeFields top P U D W Rn Vd format imm8).extractLsb' 16 4 = Rn :=
  extract_encodeFields _ _ _ _ _ _ _ _ _ 16 Rn (by omega)

@[simp] theorem encodeFields_Vd : (encodeFields top P U D W Rn Vd format imm8).extractLsb' 12 4 = Vd :=
  extract_encodeFields _ _ _ _ _ _ _ _ _ 12 Vd (by omega)

@[simp] theorem encodeFields_format : (encodeFields top P U D W Rn Vd format imm8).extractLsb' 8 4 = format :=
  extract_encodeFields _ _ _ _ _ _ _ _ _ 8 format (by omega)

@[simp] theorem encodeFields_imm8 : (encodeFields top P U D W Rn Vd format imm8).extractLsb' 0 8 = imm8 :=
  extract_encodeFields _ _ _ _ _ _ _ _ _ 0 imm8 (by omega)

end Fields

/-- A word whose fixed bits are the page's is made up of its fields. -/
theorem encodeFields_of_word (w : Word) (h3 : w.extractLsb' 25 3 = 0b110#3) (h1 : w.extractLsb' 20 1 = 1#1) :
    encodeFields (w.extractLsb' 28 4) (w.extractLsb' 24 1) (w.extractLsb' 23 1) (w.extractLsb' 22 1) (w.extractLsb' 21 1)
      (w.extractLsb' 16 4) (w.extractLsb' 12 4) (w.extractLsb' 8 4) (w.extractLsb' 0 8) = w := by
  have e3 := congrArg BitVec.toNat h3
  have e1 := congrArg BitVec.toNat h1
  apply BitVec.eq_of_toNat_eq
  rw [encodeFields_toNat]
  simp only [BitVec.extractLsb'_toNat, Nat.shiftRight_eq_div_pow, BitVec.toNat_ofNat] at *
  have := w.isLt
  omega

/-! ## What the two builders of an instruction give, for the decoder and the assembler -/

/-- An increment-after instruction: its set, its word, and when it is well-formed. -/
theorem mkIncrementAfter_spec (iset : ISet) (single : Bool) (cond : BitVec 4) (D W : BitVec 1) (Rn Vd : BitVec 4)
    (imm8 : BitVec 8) :
    (mkIncrementAfter iset single cond D W Rn Vd imm8).iset = iset ∧
    encode (mkIncrementAfter iset single cond D W Rn Vd imm8) =
      encodeFields (if iset = .a32 then cond else 0b1110#4) 0 1 D W Rn Vd (if single then 0b1010#4 else 0b1011#4) imm8 ∧
    (mkIncrementAfter iset single cond D W Rn Vd imm8).wellFormed =
      ((decide (iset = .t32) || condOk cond) && (single || imm8Even imm8)) := by
  unfold mkIncrementAfter
  cases hv : isVpop W Rn
  · cases iset <;> cases single <;> simp [Instr.iset, encode, Instr.wellFormed, hv]
  · obtain ⟨hW, hR⟩ : W = 1#1 ∧ Rn = 0b1101#4 := by simpa [isVpop] using hv
    subst hW hR
    cases iset <;> cases single <;> simp [Instr.iset, encode, Instr.wellFormed]

/-- A decrement-before instruction: its set, its word, and when it is well-formed. -/
theorem mkDecrementBefore_spec (iset : ISet) (single : Bool) (cond : BitVec 4) (D : BitVec 1) (Rn Vd : BitVec 4)
    (imm8 : BitVec 8) :
    (mkDecrementBefore iset single cond D Rn Vd imm8).iset = iset ∧
    encode (mkDecrementBefore iset single cond D Rn Vd imm8) =
      encodeFields (if iset = .a32 then cond else 0b1110#4) 1 0 D 1 Rn Vd (if single then 0b1010#4 else 0b1011#4) imm8 ∧
    (mkDecrementBefore iset single cond D Rn Vd imm8).wellFormed =
      ((decide (iset = .t32) || condOk cond) && (single || imm8Even imm8)) := by
  cases iset <;> cases single <;> simp [mkDecrementBefore, Instr.iset, encode, Instr.wellFormed]

end Sys2Proof
end

