-- ==== Sys2Proof/Laws/Memory.lean ====
section
/-! SUPPORT. The laws of memory: a read after a write, and the canonical form, which every memory operation keeps. -/

namespace Sys2Proof.Machine.Memory

open Sys2Proof.Machine

@[simp] theorem read_nil (a : Nat) : Memory.read [] a = none := rfl

@[simp] theorem read_cons (c : Host.Cell) (m : Memory) (a : Nat) :
    Memory.read (c :: m) a = if c.1 = a then some c.2 else Memory.read m a := rfl

/-- A canonical memory from `lo` on lists no address below `lo`. -/
theorem read_of_lt {lo a : Nat} {m : Memory} (h : Memory.wfFrom lo m = true) (ha : a < lo) : Memory.read m a = none := by
  induction m generalizing lo with
  | nil => rfl
  | cons c m ih =>
    simp only [Memory.wfFrom, Bool.and_eq_true, decide_eq_true_eq] at h
    have hne : c.1 ≠ a := by omega
    simp [hne, ih h.2 (by omega)]

/-- The byte just written is the byte read. -/
theorem read_write_same (m : Memory) (a : Nat) (b : Byte) : Memory.read (Memory.write m a b) a = some b := by
  induction m with
  | nil => simp [Memory.write]
  | cons c m ih =>
    simp only [Memory.write]
    split
    · simp
    · split
      · simp
      · rename_i h; simp [ih, Ne.symm h]

/-- A write leaves every other address of a canonical memory alone. -/
theorem read_write_other {lo : Nat} {m : Memory} (a a' : Nat) (b : Byte) (hne : a ≠ a') (h : Memory.wfFrom lo m = true) :
    Memory.read (Memory.write m a b) a' = Memory.read m a' := by
  induction m generalizing lo with
  | nil => simp [Memory.write, hne]
  | cons c m ih =>
    simp only [Memory.wfFrom, Bool.and_eq_true, decide_eq_true_eq] at h
    simp only [Memory.write]
    split
    · simp [hne]
    · split
      · rename_i hac; subst hac; simp [hne]
      · simp [ih h.2]

/-- A write keeps the canonical form. -/
theorem write_wfFrom {lo : Nat} {m : Memory} (a : Nat) (b : Byte) (h : Memory.wfFrom lo m = true) (hlo : lo ≤ a)
    (ha : a < 2 ^ 32) : Memory.wfFrom lo (Memory.write m a b) = true := by
  induction m generalizing lo with
  | nil => simp [Memory.write, Memory.wfFrom]; omega
  | cons c m ih =>
    simp only [Memory.wfFrom, Bool.and_eq_true, decide_eq_true_eq] at h
    simp only [Memory.write]
    split
    · simp only [Memory.wfFrom, Bool.and_eq_true, decide_eq_true_eq]
      exact ⟨⟨hlo, ha⟩, ⟨by omega, h.1.2⟩, h.2⟩
    · split
      · rename_i hac; subst hac
        simp only [Memory.wfFrom, Bool.and_eq_true, decide_eq_true_eq]
        exact h
      · simp only [Memory.wfFrom, Bool.and_eq_true, decide_eq_true_eq]
        exact ⟨h.1, ih h.2 (by omega)⟩

/-- A write at a 32-bit address keeps `Memory.wf`; it is the only operation that changes a memory. -/
theorem write_wf {m : Memory} (a : Nat) (b : Byte) (h : Memory.wf m = true) (ha : a < 2 ^ 32) :
    Memory.wf (Memory.write m a b) = true :=
  write_wfFrom a b h (Nat.zero_le a) ha

/-- Reset lists nothing, which is canonical. -/
theorem reset_wf : Memory.wf State.reset.mem = true := rfl

end Sys2Proof.Machine.Memory
end

