-- ==== Sys2Proof/Laws/State.lean ====
section
/-! SUPPORT. One lemma per field per update of State, each true by rfl, so that no proof unfolds a record update. -/

namespace Sys2Proof.Machine.State

open Sys2Proof.Machine

/-! ## writeR -/

@[simp] theorem writeR_r (s : State) (n : Nat) (v : Word) : (s.writeR n v).r = s.r.setIfInBounds n v := rfl
@[simp] theorem writeR_pc (s : State) (n : Nat) (v : Word) : (s.writeR n v).pc = s.pc := rfl
@[simp] theorem writeR_d (s : State) (n : Nat) (v : Word) : (s.writeR n v).d = s.d := rfl
@[simp] theorem writeR_flags (s : State) (n : Nat) (v : Word) : (s.writeR n v).flags = s.flags := rfl
@[simp] theorem writeR_iset (s : State) (n : Nat) (v : Word) : (s.writeR n v).iset = s.iset := rfl
@[simp] theorem writeR_e (s : State) (n : Nat) (v : Word) : (s.writeR n v).e = s.e := rfl
@[simp] theorem writeR_itstate (s : State) (n : Nat) (v : Word) : (s.writeR n v).itstate = s.itstate := rfl
@[simp] theorem writeR_mem (s : State) (n : Nat) (v : Word) : (s.writeR n v).mem = s.mem := rfl
@[simp] theorem writeR_sys (s : State) (n : Nat) (v : Word) : (s.writeR n v).sys = s.sys := rfl
@[simp] theorem writeR_launch (s : State) (n : Nat) (v : Word) : (s.writeR n v).launch = s.launch := rfl
@[simp] theorem writeR_unknownR (s : State) (n : Nat) (v : Word) :
    (s.writeR n v).unknownR =
      s.unknownR.setIfInBounds n false := rfl
@[simp] theorem writeR_unknownS (s : State) (n : Nat) (v : Word) : (s.writeR n v).unknownS = s.unknownS := rfl
@[simp] theorem writeR_draws (s : State) (n : Nat) (v : Word) : (s.writeR n v).draws = s.draws := rfl

/-! ## forgetR -/

@[simp] theorem forgetR_r (s : State) (n : Nat) : (s.forgetR n).r = s.r := rfl
@[simp] theorem forgetR_pc (s : State) (n : Nat) : (s.forgetR n).pc = s.pc := rfl
@[simp] theorem forgetR_d (s : State) (n : Nat) : (s.forgetR n).d = s.d := rfl
@[simp] theorem forgetR_flags (s : State) (n : Nat) : (s.forgetR n).flags = s.flags := rfl
@[simp] theorem forgetR_iset (s : State) (n : Nat) : (s.forgetR n).iset = s.iset := rfl
@[simp] theorem forgetR_e (s : State) (n : Nat) : (s.forgetR n).e = s.e := rfl
@[simp] theorem forgetR_itstate (s : State) (n : Nat) : (s.forgetR n).itstate = s.itstate := rfl
@[simp] theorem forgetR_mem (s : State) (n : Nat) : (s.forgetR n).mem = s.mem := rfl
@[simp] theorem forgetR_sys (s : State) (n : Nat) : (s.forgetR n).sys = s.sys := rfl
@[simp] theorem forgetR_launch (s : State) (n : Nat) : (s.forgetR n).launch = s.launch := rfl
@[simp] theorem forgetR_unknownR (s : State) (n : Nat) : (s.forgetR n).unknownR = s.unknownR.setIfInBounds n true := rfl
@[simp] theorem forgetR_unknownS (s : State) (n : Nat) : (s.forgetR n).unknownS = s.unknownS := rfl
@[simp] theorem forgetR_draws (s : State) (n : Nat) : (s.forgetR n).draws = s.draws := rfl

/-! ## writeD -/

@[simp] theorem writeD_r (s : State) (i : Nat) (v : DWord) : (s.writeD i v).r = s.r := rfl
@[simp] theorem writeD_pc (s : State) (i : Nat) (v : DWord) : (s.writeD i v).pc = s.pc := rfl
@[simp] theorem writeD_d (s : State) (i : Nat) (v : DWord) : (s.writeD i v).d = s.d.setIfInBounds i v := rfl
@[simp] theorem writeD_flags (s : State) (i : Nat) (v : DWord) : (s.writeD i v).flags = s.flags := rfl
@[simp] theorem writeD_iset (s : State) (i : Nat) (v : DWord) : (s.writeD i v).iset = s.iset := rfl
@[simp] theorem writeD_e (s : State) (i : Nat) (v : DWord) : (s.writeD i v).e = s.e := rfl
@[simp] theorem writeD_itstate (s : State) (i : Nat) (v : DWord) : (s.writeD i v).itstate = s.itstate := rfl
@[simp] theorem writeD_mem (s : State) (i : Nat) (v : DWord) : (s.writeD i v).mem = s.mem := rfl
@[simp] theorem writeD_sys (s : State) (i : Nat) (v : DWord) : (s.writeD i v).sys = s.sys := rfl
@[simp] theorem writeD_launch (s : State) (i : Nat) (v : DWord) : (s.writeD i v).launch = s.launch := rfl
@[simp] theorem writeD_unknownR (s : State) (i : Nat) (v : DWord) : (s.writeD i v).unknownR = s.unknownR := rfl
@[simp] theorem writeD_unknownS (s : State) (i : Nat) (v : DWord) :
    (s.writeD i v).unknownS =
      (s.unknownS.setIfInBounds (2 * i) false).setIfInBounds (2 * i + 1) false := rfl
@[simp] theorem writeD_draws (s : State) (i : Nat) (v : DWord) : (s.writeD i v).draws = s.draws := rfl

/-! ## writeS -/

@[simp] theorem writeS_r (s : State) (i : Nat) (w : Word) : (s.writeS i w).r = s.r := rfl
@[simp] theorem writeS_pc (s : State) (i : Nat) (w : Word) : (s.writeS i w).pc = s.pc := rfl
@[simp] theorem writeS_d (s : State) (i : Nat) (w : Word) :
    (s.writeS i w).d =
      s.d.setIfInBounds (i / 2) (replaceHalf i (s.d[i / 2]?.getD 0) w) := rfl
@[simp] theorem writeS_flags (s : State) (i : Nat) (w : Word) : (s.writeS i w).flags = s.flags := rfl
@[simp] theorem writeS_iset (s : State) (i : Nat) (w : Word) : (s.writeS i w).iset = s.iset := rfl
@[simp] theorem writeS_e (s : State) (i : Nat) (w : Word) : (s.writeS i w).e = s.e := rfl
@[simp] theorem writeS_itstate (s : State) (i : Nat) (w : Word) : (s.writeS i w).itstate = s.itstate := rfl
@[simp] theorem writeS_mem (s : State) (i : Nat) (w : Word) : (s.writeS i w).mem = s.mem := rfl
@[simp] theorem writeS_sys (s : State) (i : Nat) (w : Word) : (s.writeS i w).sys = s.sys := rfl
@[simp] theorem writeS_launch (s : State) (i : Nat) (w : Word) : (s.writeS i w).launch = s.launch := rfl
@[simp] theorem writeS_unknownR (s : State) (i : Nat) (w : Word) : (s.writeS i w).unknownR = s.unknownR := rfl
@[simp] theorem writeS_unknownS (s : State) (i : Nat) (w : Word) :
    (s.writeS i w).unknownS =
      s.unknownS.setIfInBounds i false := rfl
@[simp] theorem writeS_draws (s : State) (i : Nat) (w : Word) : (s.writeS i w).draws = s.draws := rfl

/-! ## forgetList -/

@[simp] theorem forgetList_r (s : State) (o : Operands) : (s.forgetList o).r = s.r := rfl
@[simp] theorem forgetList_pc (s : State) (o : Operands) : (s.forgetList o).pc = s.pc := rfl
@[simp] theorem forgetList_d (s : State) (o : Operands) : (s.forgetList o).d = s.d := rfl
@[simp] theorem forgetList_flags (s : State) (o : Operands) : (s.forgetList o).flags = s.flags := rfl
@[simp] theorem forgetList_iset (s : State) (o : Operands) : (s.forgetList o).iset = s.iset := rfl
@[simp] theorem forgetList_e (s : State) (o : Operands) : (s.forgetList o).e = s.e := rfl
@[simp] theorem forgetList_itstate (s : State) (o : Operands) : (s.forgetList o).itstate = s.itstate := rfl
@[simp] theorem forgetList_mem (s : State) (o : Operands) : (s.forgetList o).mem = s.mem := rfl
@[simp] theorem forgetList_sys (s : State) (o : Operands) : (s.forgetList o).sys = s.sys := rfl
@[simp] theorem forgetList_launch (s : State) (o : Operands) : (s.forgetList o).launch = s.launch := rfl
@[simp] theorem forgetList_unknownR (s : State) (o : Operands) : (s.forgetList o).unknownR = s.unknownR := rfl
@[simp] theorem forgetList_unknownS (s : State) (o : Operands) :
    (s.forgetList o).unknownS =
      if o.singleRegs then markHalves o.regs o.d s.unknownS else markHalves (2 * o.regs) (2 * o.d) s.unknownS := rfl
@[simp] theorem forgetList_draws (s : State) (o : Operands) : (s.forgetList o).draws = s.draws := rfl

/-! ## forgetSome -/

@[simp] theorem forgetSome_r (s : State) : (s.forgetSome).r = s.r := rfl
@[simp] theorem forgetSome_pc (s : State) : (s.forgetSome).pc = s.pc := rfl
@[simp] theorem forgetSome_d (s : State) : (s.forgetSome).d = s.d := rfl
@[simp] theorem forgetSome_flags (s : State) : (s.forgetSome).flags = s.flags := rfl
@[simp] theorem forgetSome_iset (s : State) : (s.forgetSome).iset = s.iset := rfl
@[simp] theorem forgetSome_e (s : State) : (s.forgetSome).e = s.e := rfl
@[simp] theorem forgetSome_itstate (s : State) : (s.forgetSome).itstate = s.itstate := rfl
@[simp] theorem forgetSome_mem (s : State) : (s.forgetSome).mem = s.mem := rfl
@[simp] theorem forgetSome_sys (s : State) : (s.forgetSome).sys = s.sys := rfl
@[simp] theorem forgetSome_launch (s : State) : (s.forgetSome).launch = s.launch := rfl
@[simp] theorem forgetSome_unknownR (s : State) : (s.forgetSome).unknownR = s.unknownR := rfl
@[simp] theorem forgetSome_unknownS (s : State) :
    (s.forgetSome).unknownS =
      markHalves 2 (2 * (Config.unknownOne s.draws).val) (markSubset (Config.unknownSubset s.draws) 32 s.unknownS) := rfl
@[simp] theorem forgetSome_draws (s : State) : (s.forgetSome).draws = s.draws + 1 := rfl

/-! ## afterReadR, which only ever counts a draw -/

@[simp] theorem afterReadR_r (s : State) (n : Nat) : (s.afterReadR n).r = s.r := by
  unfold afterReadR; split <;> rfl
@[simp] theorem afterReadR_pc (s : State) (n : Nat) : (s.afterReadR n).pc = s.pc := by
  unfold afterReadR; split <;> rfl
@[simp] theorem afterReadR_d (s : State) (n : Nat) : (s.afterReadR n).d = s.d := by
  unfold afterReadR; split <;> rfl
@[simp] theorem afterReadR_flags (s : State) (n : Nat) : (s.afterReadR n).flags = s.flags := by
  unfold afterReadR; split <;> rfl
@[simp] theorem afterReadR_iset (s : State) (n : Nat) : (s.afterReadR n).iset = s.iset := by
  unfold afterReadR; split <;> rfl
@[simp] theorem afterReadR_e (s : State) (n : Nat) : (s.afterReadR n).e = s.e := by
  unfold afterReadR; split <;> rfl
@[simp] theorem afterReadR_itstate (s : State) (n : Nat) : (s.afterReadR n).itstate = s.itstate := by
  unfold afterReadR; split <;> rfl
@[simp] theorem afterReadR_mem (s : State) (n : Nat) : (s.afterReadR n).mem = s.mem := by
  unfold afterReadR; split <;> rfl
@[simp] theorem afterReadR_sys (s : State) (n : Nat) : (s.afterReadR n).sys = s.sys := by
  unfold afterReadR; split <;> rfl
@[simp] theorem afterReadR_launch (s : State) (n : Nat) : (s.afterReadR n).launch = s.launch := by
  unfold afterReadR; split <;> rfl
@[simp] theorem afterReadR_unknownR (s : State) (n : Nat) : (s.afterReadR n).unknownR = s.unknownR := by
  unfold afterReadR; split <;> rfl
@[simp] theorem afterReadR_unknownS (s : State) (n : Nat) : (s.afterReadR n).unknownS = s.unknownS := by
  unfold afterReadR; split <;> rfl
theorem afterReadR_draws (s : State) (n : Nat) :
    (s.afterReadR n).draws = if n ≠ 15 ∧ s.isUnknownR n then s.draws + 1 else s.draws := by
  unfold afterReadR; split <;> rfl

/-- A read of a register that is not marked unknown leaves the state. -/
theorem afterReadR_of_known (s : State) (n : Nat) (h : s.isUnknownR n = false) : s.afterReadR n = s := by
  simp [afterReadR, h]

end Sys2Proof.Machine.State
end

