-- ==== Sys2Proof/Laws/Ops.lean ====
section
/-! SUPPORT. One lemma for each shared operation that says all it can do, for later proofs to cite. -/

namespace Sys2Proof.Machine

/-! ## Unknown marks -/

theorem getElem?_markHalves (count lo h : Nat) (u : Vector Bool 64) :
    (markHalves count lo u)[h]?.getD false =
      ((decide (lo ≤ h) && decide (h < lo + count) && decide (h < 64)) || u[h]?.getD false) := by
  induction count generalizing lo u with
  | zero =>
    simp [markHalves]
  | succ k ih =>
    rw [markHalves, ih]
    simp only [Vector.getElem?_setIfInBounds]
    by_cases hlo : lo = h
    · subst hlo
      by_cases hb : lo < 64
      · simp [hb]
      · simp [hb]
    · rw [if_neg hlo]
      congr 1
      rw [Bool.eq_iff_iff]
      simp only [Bool.and_eq_true, decide_eq_true_eq]
      omega

namespace State

@[simp] theorem isUnknownHalf_writeS (s : State) (i h : Nat) (w : Word) :
    (s.writeS i w).isUnknownHalf h = if h = i then false else s.isUnknownHalf h := by
  simp only [isUnknownHalf, writeS_unknownS, Vector.getElem?_setIfInBounds]
  by_cases hi : i = h
  · subst hi; by_cases hb : i < 64 <;> simp [hb]
  · simp [hi, Ne.symm hi]

@[simp] theorem isUnknownHalf_writeD (s : State) (i h : Nat) (v : DWord) :
    (s.writeD i v).isUnknownHalf h = if h = 2 * i ∨ h = 2 * i + 1 then false else s.isUnknownHalf h := by
  simp only [isUnknownHalf, writeD_unknownS, Vector.getElem?_setIfInBounds]
  by_cases h1 : 2 * i + 1 = h
  · subst h1; by_cases hb : 2 * i + 1 < 64 <;> simp [hb]
  · by_cases h0 : 2 * i = h
    · subst h0; by_cases hb : 2 * i < 64 <;> simp [hb]
    · simp [h0, h1, Ne.symm h0, Ne.symm h1]

theorem isUnknownHalf_forgetList (s : State) (o : Operands) (h : Nat) :
    (s.forgetList o).isUnknownHalf h =
      ((if o.singleRegs then decide (o.d ≤ h) && decide (h < o.d + o.regs) && decide (h < 64)
        else decide (2 * o.d ≤ h) && decide (h < 2 * o.d + 2 * o.regs) && decide (h < 64)) || s.isUnknownHalf h) := by
  simp only [isUnknownHalf, forgetList_unknownS]
  cases o.singleRegs
  · exact getElem?_markHalves (2 * o.regs) (2 * o.d) h s.unknownS
  · exact getElem?_markHalves o.regs o.d h s.unknownS

/-! ## Register views -/

/-- A D register just written reads as it was written. -/
theorem readD_writeD_same (s : State) (i : Nat) (v : DWord) (hi : i < 32) : (s.writeD i v).readD i = some v := by
  simp [readD, hi]

/-- A D register is left alone by a write to another one. -/
theorem readD_writeD_other (s : State) (i j : Nat) (v : DWord) (hij : i ≠ j) : (s.writeD i v).readD j = s.readD j := by
  have h1 : ¬ (2 * j = 2 * i ∨ 2 * j = 2 * i + 1) := by omega
  have h2 : ¬ (2 * j + 1 = 2 * i ∨ 2 * j + 1 = 2 * i + 1) := by omega
  simp only [readD, isUnknownHalf_writeD, if_neg h1, if_neg h2, writeD_d, Vector.getElem?_setIfInBounds, if_neg hij]

theorem extractLow_join (hi lo : Word) : (hi ++ lo : DWord).extractLsb' 0 32 = lo := by
  apply BitVec.eq_of_toNat_eq
  simp only [BitVec.extractLsb'_toNat, BitVec.toNat_append, Nat.shiftRight_zero]
  rw [← Nat.shiftLeft_add_eq_or_of_lt lo.isLt, Nat.shiftLeft_eq]
  have := lo.isLt; omega

theorem extractHigh_join (hi lo : Word) : (hi ++ lo : DWord).extractLsb' 32 32 = hi := by
  apply BitVec.eq_of_toNat_eq
  simp only [BitVec.extractLsb'_toNat, BitVec.toNat_append]
  rw [← Nat.shiftLeft_add_eq_or_of_lt lo.isLt, Nat.shiftLeft_eq, Nat.shiftRight_eq_div_pow]
  have := lo.isLt; have := hi.isLt; omega

theorem extractLow_replaceHalf (i : Nat) (v : DWord) (w : Word) :
    (replaceHalf i v w).extractLsb' 0 32 = if i % 2 = 0 then w else v.extractLsb' 0 32 := by
  unfold replaceHalf; split <;> exact extractLow_join _ _

theorem extractHigh_replaceHalf (i : Nat) (v : DWord) (w : Word) :
    (replaceHalf i v w).extractLsb' 32 32 = if i % 2 = 0 then v.extractLsb' 32 32 else w := by
  unfold replaceHalf; split <;> exact extractHigh_join _ _

/-- An S register just written reads as it was written. -/
theorem readS_writeS_same (s : State) (i : Nat) (w : Word) (hi : i < 32) : (s.writeS i w).readS i = some w := by
  have h2 : i / 2 < 32 := by omega
  have h3 : ¬ (32 ≤ i) := by omega
  simp [readS, h2, h3, extractLow_replaceHalf, extractHigh_replaceHalf]
  split <;> rfl

/-- An S register is left alone by a write to another one, the other half of its D register included. -/
theorem readS_writeS_other (s : State) (i j : Nat) (w : Word) (hij : i ≠ j) : (s.writeS i w).readS j = s.readS j := by
  by_cases hd : i / 2 = j / 2
  · by_cases hb : j / 2 < 32
    · have hp : i % 2 = 0 ↔ ¬ j % 2 = 0 := by omega
      by_cases hj : j % 2 = 0
      · have hi : ¬ i % 2 = 0 := by omega
        simp [readS, Ne.symm hij, hd, hb, hj, hi, extractLow_replaceHalf]
      · have hi : i % 2 = 0 := by omega
        simp [readS, Ne.symm hij, hd, hb, hj, hi, extractHigh_replaceHalf]
    · simp [readS, Ne.symm hij, hb]
  · simp [readS, Ne.symm hij, hd]

/-- A D register that does not hold the written S register is left alone. -/
theorem readD_writeS_other (s : State) (i j : Nat) (w : Word) (hij : i / 2 ≠ j) : (s.writeS i w).readD j = s.readD j := by
  have h1 : ¬ 2 * j = i := by omega
  have h2 : ¬ 2 * j + 1 = i := by omega
  simp [readD, h1, h2, hij]

/-! ## The read primitive -/

/-- Reading memory looks at memory and endianness only. -/
theorem memRead_congr {s t : State} (hm : t.mem = s.mem) (he : t.e = s.e) (a : Word) : t.memRead a = s.memRead a := by
  simp only [memRead, wordAt, hm, he]

@[simp] theorem memRead_writeS (s : State) (i : Nat) (w a : Word) : (s.writeS i w).memRead a = s.memRead a :=
  memRead_congr rfl rfl a

@[simp] theorem memRead_writeD (s : State) (i : Nat) (v : DWord) (a : Word) : (s.writeD i v).memRead a = s.memRead a :=
  memRead_congr rfl rfl a

@[simp] theorem memRead_afterReadR (s : State) (n : Nat) (a : Word) : (s.afterReadR n).memRead a = s.memRead a :=
  memRead_congr (by simp) (by simp) a

/-- An abort names the address that was read. -/
theorem memRead_abort_addr {s : State} {a x : Word} {kind : AbortKind} (h : s.memRead a = .abort kind x) : x = a := by
  unfold memRead at h
  split at h
  · split at h <;> simp_all
  · simp_all

end State

/-! ## The loops of R132 -/

/-- The S loop succeeds when every word reads, and then each register holds its word and nothing else has changed. -/
theorem loadSingles_ok {regs i : Nat} {a : Word} {s : State} {ws : Nat → Word} (hi : i + regs ≤ 32)
    (h : ∀ k < regs, s.memRead (a + BitVec.ofNat 32 (4 * k)) = .ok (ws k)) :
    ∃ t, loadSingles regs i a s = .ok t ∧
      t = { s with d := t.d, unknownS := t.unknownS } ∧
      (∀ k < regs, t.readS (i + k) = some (ws k)) ∧
      (∀ j, j < i ∨ i + regs ≤ j → t.readS j = s.readS j) ∧
      (∀ j, j < i / 2 ∨ (i + regs + 1) / 2 ≤ j → t.d[j]? = s.d[j]?) ∧
      (∀ j, j < i ∨ i + regs ≤ j → t.isUnknownHalf j = s.isUnknownHalf j) := by
  induction regs generalizing i a s ws with
  | zero => exact ⟨s, rfl, rfl, by simp, by simp, by simp, by simp⟩
  | succ n ih =>
    have h0 := h 0 (by omega)
    simp only [Nat.mul_zero, BitVec.add_zero] at h0
    have hrest : ∀ k < n, (s.writeS i (ws 0)).memRead (a + 4 + BitVec.ofNat 32 (4 * k)) = .ok (ws (k + 1)) := by
      intro k hk
      have := h (k + 1) (by omega)
      rw [State.memRead_writeS, ← this]
      congr 1
      rw [BitVec.add_assoc]
      congr 1
      apply BitVec.eq_of_toNat_eq
      simp [BitVec.toNat_add]
      congr 1; omega
    obtain ⟨t, ht, hs, hin, hout, hd, hu⟩ := ih (i := i + 1) (by omega) hrest
    refine ⟨t, ?_, ?_, ?_, ?_, ?_, ?_⟩
    · simp only [loadSingles, h0]; exact ht
    · rw [hs]; rfl
    · intro k hk
      rcases k with _ | k
      · rw [Nat.add_zero, hout i (by omega)]
        exact State.readS_writeS_same s i (ws 0) (by omega)
      · have := hin k (by omega)
        rw [show i + (k + 1) = i + 1 + k from by omega]; exact this
    · intro j hj
      rw [hout j (by omega)]
      exact State.readS_writeS_other s i j (ws 0) (by omega)
    · intro j hj
      rw [hd j (by omega)]
      have : i / 2 ≠ j := by omega
      simp [this]
    · intro j hj
      rw [hu j (by omega)]
      have : j ≠ i := by omega
      simp [this]

/-- The D loop succeeds when every word reads, and then each register holds its two words and nothing else has changed. -/
theorem loadDoubles_ok {regs i : Nat} {a : Word} {s : State} {ws : Nat → Word} (hi : i + regs ≤ 32)
    (h : ∀ k < 2 * regs, s.memRead (a + BitVec.ofNat 32 (4 * k)) = .ok (ws k)) :
    ∃ t, loadDoubles regs i a s = .ok t ∧
      t = { s with d := t.d, unknownS := t.unknownS } ∧
      (∀ k < regs, t.readD (i + k) = some (combineWords s.e (ws (2 * k)) (ws (2 * k + 1)))) ∧
      (∀ j, j < i ∨ i + regs ≤ j → t.readD j = s.readD j) ∧
      (∀ j, j < i ∨ i + regs ≤ j → t.d[j]? = s.d[j]?) ∧
      (∀ j, j < 2 * i ∨ 2 * (i + regs) ≤ j → t.isUnknownHalf j = s.isUnknownHalf j) := by
  induction regs generalizing i a s ws with
  | zero => exact ⟨s, rfl, rfl, by simp, by simp, by simp, by simp⟩
  | succ n ih =>
    have h0 := h 0 (by omega)
    have h1 : s.memRead (a + 4) = .ok (ws 1) := h 1 (by omega)
    simp only [Nat.mul_zero, BitVec.add_zero] at h0
    have hrest : ∀ k < 2 * n,
        (s.writeD i (combineWords s.e (ws 0) (ws 1))).memRead (a + 8 + BitVec.ofNat 32 (4 * k)) = .ok (ws (k + 2)) := by
      intro k hk
      have := h (k + 2) (by omega)
      rw [State.memRead_writeD, ← this]
      congr 1
      rw [BitVec.add_assoc]
      congr 1
      apply BitVec.eq_of_toNat_eq
      simp [BitVec.toNat_add]
      congr 1; omega
    obtain ⟨t, ht, hs, hin, hout, hd, hu⟩ := ih (i := i + 1) (by omega) hrest
    refine ⟨t, ?_, ?_, ?_, ?_, ?_, ?_⟩
    · simp only [loadDoubles, h0, h1]; exact ht
    · rw [hs]; rfl
    · intro k hk
      rcases k with _ | k
      · rw [Nat.add_zero, hout i (by omega)]
        exact State.readD_writeD_same s i _ (by omega)
      · have := hin k (by omega)
        rw [show i + (k + 1) = i + 1 + k from by omega]; exact this
    · intro j hj
      rw [hout j (by omega)]
      exact State.readD_writeD_other s i j _ (by omega)
    · intro j hj
      rw [hd j (by omega)]
      have : i ≠ j := by omega
      simp [this]
    · intro j hj
      rw [hu j (by omega)]
      have : ¬ (j = 2 * i ∨ j = 2 * i + 1) := by omega
      simp [this]

/-- The S loop aborts only at one of its words, and the words before it read. -/
theorem loadSingles_abort {regs i : Nat} {a x : Word} {s : State} {kind : AbortKind}
    (h : loadSingles regs i a s = .abort kind x) :
    ∃ k < regs, x = a + BitVec.ofNat 32 (4 * k) ∧ s.memRead x = .abort kind x := by
  induction regs generalizing i a s with
  | zero => simp [loadSingles] at h
  | succ n ih =>
    unfold loadSingles at h
    split at h
    · rename_i kd ad hr
      obtain ⟨rfl, rfl⟩ : kd = kind ∧ ad = x := by simpa using h
      have hx := State.memRead_abort_addr hr
      subst hx
      exact ⟨0, by omega, by simp, hr⟩
    · obtain ⟨k, hk, hx, hr⟩ := ih h
      rw [State.memRead_writeS] at hr
      refine ⟨k + 1, by omega, ?_, hr⟩
      rw [hx, BitVec.add_assoc]; congr 1
      apply BitVec.eq_of_toNat_eq; simp [BitVec.toNat_add]; congr 1; omega

/-- The D loop aborts only at one of its words. -/
theorem loadDoubles_abort {regs i : Nat} {a x : Word} {s : State} {kind : AbortKind}
    (h : loadDoubles regs i a s = .abort kind x) :
    ∃ k < 2 * regs, x = a + BitVec.ofNat 32 (4 * k) ∧ s.memRead x = .abort kind x := by
  induction regs generalizing i a s with
  | zero => simp [loadDoubles] at h
  | succ n ih =>
    unfold loadDoubles at h
    split at h
    · rename_i kd ad hr
      obtain ⟨rfl, rfl⟩ : kd = kind ∧ ad = x := by simpa using h
      have hx := State.memRead_abort_addr hr
      subst hx
      exact ⟨0, by omega, by simp, hr⟩
    · split at h
      · rename_i kd ad hr
        obtain ⟨rfl, rfl⟩ : kd = kind ∧ ad = x := by simpa using h
        have hx := State.memRead_abort_addr hr
        subst hx
        exact ⟨1, by omega, by simp, hr⟩
      · obtain ⟨k, hk, hx, hr⟩ := ih h
        rw [State.memRead_writeD] at hr
        refine ⟨k + 2, by omega, ?_, hr⟩
        rw [hx, BitVec.add_assoc]; congr 1
        apply BitVec.eq_of_toNat_eq; simp [BitVec.toNat_add]; congr 1; omega

/-- A loop that succeeds changes the SIMD&FP file and its marks only. -/
theorem loadList_ok_same {o : Operands} {a : Word} {s t : State} (h : loadList o a s = .ok t) :
    t = { s with d := t.d, unknownS := t.unknownS } := by
  have hS : ∀ (n i : Nat) (a : Word) (s : State), loadSingles n i a s = .ok t →
      t = { s with d := t.d, unknownS := t.unknownS } := by
    intro n
    induction n with
    | zero => intro i a s h; simp only [loadSingles, ReadResult.ok.injEq] at h; rw [h]
    | succ n ih =>
      intro i a s h
      unfold loadSingles at h
      split at h
      · simp at h
      · have := ih _ _ _ h; rw [this]; rfl
  have hD : ∀ (n i : Nat) (a : Word) (s : State), loadDoubles n i a s = .ok t →
      t = { s with d := t.d, unknownS := t.unknownS } := by
    intro n
    induction n with
    | zero => intro i a s h; simp only [loadDoubles, ReadResult.ok.injEq] at h; rw [h]
    | succ n ih =>
      intro i a s h
      unfold loadDoubles at h
      split at h
      · simp at h
      · split at h
        · simp at h
        · have := ih _ _ _ h; rw [this]; rfl
  unfold loadList at h
  split at h
  · exact hS _ _ _ _ h
  · exact hD _ _ _ _ h

/-! ## Raising and completing -/

@[simp] theorem raise_ne_next (x : Exc) (s t : State) : raise x s ≠ .next t := by
  cases x <;> simp [raise]

/-- Completion answers a next state exactly when `pc + 4` stays below 2^32, and says which. -/
theorem complete_next_iff {src : CondSource} {s t : State} :
    complete src s = .next t ↔
      s.pc.toNat + 4 < 2 ^ 32 ∧ t = { s with pc := s.pc + 4, itstate := itAfter src s.itstate } := by
  unfold complete
  split
  · rename_i h; simp only [Host.Outcome.next.injEq, h, true_and]; exact eq_comm
  · rename_i h; exact ⟨fun h' => by simp at h', fun h' => absurd h'.1 h⟩

/-! ## The outline of the access check (R175) -/

/-- NSACR denies Non-secure state: `cp10` is taken as 00. -/
theorem effectiveCp10_denied {y : SysRegs} (hs : y.security = .nonSecure) (hn : y.nsacr.getLsbD 10 = false) :
    effectiveCp10 y = 0b00#2 := if_pos ⟨hs, hn⟩

/-- Where NSACR does not deny, `cp10` is that of CPACR. -/
theorem effectiveCp10_own {y : SysRegs} (h : y.security = .nonSecure → y.nsacr.getLsbD 10 = true) :
    effectiveCp10 y = y.cpacr.extractLsb' 20 2 :=
  if_neg fun ⟨hs, hn⟩ => Bool.noConfusion ((h hs).symm.trans hn)

/-- Hyp mode does not look at `cp10`. -/
theorem cp10Denies_hyp {y : SysRegs} (hm : y.mode = .hyp) : cp10Denies y = false := if_pos hm

/-- The defined values of `cp10` outside Hyp mode. -/
theorem cp10Denies_of_defined {y : SysRegs} (hm : y.mode ≠ .hyp) :
    (effectiveCp10 y = 0b00#2 → cp10Denies y = true) ∧
    (effectiveCp10 y = 0b01#2 → cp10Denies y = decide (y.mode = .user)) ∧
    (effectiveCp10 y = 0b11#2 → cp10Denies y = false) := by
  refine ⟨fun h => ?_, fun h => ?_, fun h => ?_⟩ <;> simp [cp10Denies, hm, h]

/-- Everything the outline of R175 can answer: each answer with exactly its conditions, the earlier tests first. -/
theorem outlineAccess_cases (y : SysRegs) :
    (outlineAccess y = .undef ∧ (cp10Denies y = true ∨ y.fpexc.getLsbD 30 = false)) ∨
    (outlineAccess y = .hypTrap ∧ cp10Denies y = false ∧ y.fpexc.getLsbD 30 = true ∧ trapsToHyp y = true) ∨
    (outlineAccess y = .enabled ∧ cp10Denies y = false ∧ y.fpexc.getLsbD 30 = true ∧ trapsToHyp y = false) := by
  unfold outlineAccess
  cases cp10Denies y <;> cases y.fpexc.getLsbD 30 <;> cases trapsToHyp y <;> simp

/-! ## The step of R130 -/

/-- Everything a transfer that answers a next state has done. -/
theorem transfer_next {src : CondSource} {o : Operands} {s t : State} (h : transfer src o s = .next t) :
    ∃ s', loadList o (o.start (s.valueR o.n)) (s.afterReadR o.n) = .ok s' ∧
      complete src (writeBack o (s.valueR o.n) s') = .next t := by
  unfold transfer at h
  split at h
  · simp at h
  · split at h
    · simp at h
    · exact ⟨_, by assumption, h⟩

/-- Everything a VLDM, VLDMDB or VPOP that answers a next state can have done: nothing (a failed condition, a constrained
no-operation), the transfer, or the third behaviour of R138. -/
theorem vldm_next {src : CondSource} {o : Operands} {s t : State} (h : vldm src o s = .next t) :
    complete src s = .next t ∨
    (s.fpAccess = .enabled ∧ transfer src o s = .next t) ∨
    (o.tooMany = true ∧ complete src (s.forgetUnder o) = .next t) := by
  unfold vldm conditional at h
  split at h
  · simp at h
  · split at h
    · unfold passedVldm noRegisters tooManyRegisters checkedTransfer at h
      split at h
      · simp at h
      · split at h
        · split at h
          · simp at h
          · exact .inl h
          · split at h
            · simp at h
            · simp at h
            · exact .inr (.inl ⟨by assumption, h⟩)
        · split at h
          · split at h
            · simp at h
            · exact .inl h
            · exact .inr (.inr ⟨by assumption, h⟩)
            · simp at h
            · simp at h
            · simp at h
          · split at h
            · simp at h
            · simp at h
            · exact .inr (.inl ⟨by assumption, h⟩)
    · exact .inl h

/-- An UNDEFINED word that answers a next state has failed its condition and done nothing. -/
theorem undefinedWord_next {src : CondSource} {s t : State} (h : undefinedWord src s = .next t) :
    complete src s = .next t := by
  unfold undefinedWord conditional at h
  split at h
  · simp at h
  · split at h
    · simp at h
    · exact h

end Sys2Proof.Machine
end

