-- ==== Sys2Proof/Laws/PerInstr.lean ====
section
/-! SUPPORT. Statements made per instruction. `FixedBits`: the encoded word has the page's own fixed bits, 27:25 = 110, bit 20 = 1
and bits 11:8 = 1011 or 1010 (spec/30_encoding.md R81 to R84, R91 steps 2 and 3). -/

namespace Sys2Proof.Laws.FixedBits

/-- The fixed bits of R81 to R84. -/
def Statement (i : Instr) : Prop :=
  (encode i).extractLsb' 25 3 = 0b110#3 ∧ (encode i).extractLsb' 20 1 = 1#1 ∧
    ((encode i).extractLsb' 8 4 = 0b1011#4 ∨ (encode i).extractLsb' 8 4 = 0b1010#4)

/-- Any word of the common layout has them. -/
theorem of_encodeFields {i : Instr} {top : BitVec 4} {P U D W : BitVec 1} {Rn Vd format : BitVec 4} {imm8 : BitVec 8}
    (h : encode i = encodeFields top P U D W Rn Vd format imm8) (hf : format = 0b1011#4 ∨ format = 0b1010#4) :
    Statement i := by
  simpa [Statement, h] using hf

theorem vldmA1 (cond : BitVec 4) (D W : BitVec 1) (Rn Vd : BitVec 4) (imm8 : BitVec 8) : Statement (.vldmA1 cond D W Rn Vd imm8) :=
  of_encodeFields rfl (.inl rfl)

theorem vldmdbA1 (cond : BitVec 4) (D : BitVec 1) (Rn Vd : BitVec 4) (imm8 : BitVec 8) : Statement (.vldmdbA1 cond D Rn Vd imm8) :=
  of_encodeFields rfl (.inl rfl)

theorem vpopA1 (cond : BitVec 4) (D : BitVec 1) (Vd : BitVec 4) (imm8 : BitVec 8) : Statement (.vpopA1 cond D Vd imm8) :=
  of_encodeFields rfl (.inl rfl)

theorem undef001A1 (cond : BitVec 4) (D : BitVec 1) (Rn Vd : BitVec 4) (imm8 : BitVec 8) : Statement (.undef001A1 cond D Rn Vd imm8) :=
  of_encodeFields rfl (.inl rfl)

theorem undef111A1 (cond : BitVec 4) (D : BitVec 1) (Rn Vd : BitVec 4) (imm8 : BitVec 8) : Statement (.undef111A1 cond D Rn Vd imm8) :=
  of_encodeFields rfl (.inl rfl)

theorem vldmA2 (cond : BitVec 4) (D W : BitVec 1) (Rn Vd : BitVec 4) (imm8 : BitVec 8) : Statement (.vldmA2 cond D W Rn Vd imm8) :=
  of_encodeFields rfl (.inr rfl)

theorem vldmdbA2 (cond : BitVec 4) (D : BitVec 1) (Rn Vd : BitVec 4) (imm8 : BitVec 8) : Statement (.vldmdbA2 cond D Rn Vd imm8) :=
  of_encodeFields rfl (.inr rfl)

theorem vpopA2 (cond : BitVec 4) (D : BitVec 1) (Vd : BitVec 4) (imm8 : BitVec 8) : Statement (.vpopA2 cond D Vd imm8) :=
  of_encodeFields rfl (.inr rfl)

theorem undef001A2 (cond : BitVec 4) (D : BitVec 1) (Rn Vd : BitVec 4) (imm8 : BitVec 8) : Statement (.undef001A2 cond D Rn Vd imm8) :=
  of_encodeFields rfl (.inr rfl)

theorem undef111A2 (cond : BitVec 4) (D : BitVec 1) (Rn Vd : BitVec 4) (imm8 : BitVec 8) : Statement (.undef111A2 cond D Rn Vd imm8) :=
  of_encodeFields rfl (.inr rfl)

theorem vldmT1 (D W : BitVec 1) (Rn Vd : BitVec 4) (imm8 : BitVec 8) : Statement (.vldmT1 D W Rn Vd imm8) :=
  of_encodeFields rfl (.inl rfl)

theorem vldmdbT1 (D : BitVec 1) (Rn Vd : BitVec 4) (imm8 : BitVec 8) : Statement (.vldmdbT1 D Rn Vd imm8) :=
  of_encodeFields rfl (.inl rfl)

theorem vpopT1 (D : BitVec 1) (Vd : BitVec 4) (imm8 : BitVec 8) : Statement (.vpopT1 D Vd imm8) :=
  of_encodeFields rfl (.inl rfl)

theorem undef001T1 (D : BitVec 1) (Rn Vd : BitVec 4) (imm8 : BitVec 8) : Statement (.undef001T1 D Rn Vd imm8) :=
  of_encodeFields rfl (.inl rfl)

theorem undef111T1 (D : BitVec 1) (Rn Vd : BitVec 4) (imm8 : BitVec 8) : Statement (.undef111T1 D Rn Vd imm8) :=
  of_encodeFields rfl (.inl rfl)

theorem vldmT2 (D W : BitVec 1) (Rn Vd : BitVec 4) (imm8 : BitVec 8) : Statement (.vldmT2 D W Rn Vd imm8) :=
  of_encodeFields rfl (.inr rfl)

theorem vldmdbT2 (D : BitVec 1) (Rn Vd : BitVec 4) (imm8 : BitVec 8) : Statement (.vldmdbT2 D Rn Vd imm8) :=
  of_encodeFields rfl (.inr rfl)

theorem vpopT2 (D : BitVec 1) (Vd : BitVec 4) (imm8 : BitVec 8) : Statement (.vpopT2 D Vd imm8) :=
  of_encodeFields rfl (.inr rfl)

theorem undef001T2 (D : BitVec 1) (Rn Vd : BitVec 4) (imm8 : BitVec 8) : Statement (.undef001T2 D Rn Vd imm8) :=
  of_encodeFields rfl (.inr rfl)

theorem undef111T2 (D : BitVec 1) (Rn Vd : BitVec 4) (imm8 : BitVec 8) : Statement (.undef111T2 D Rn Vd imm8) :=
  of_encodeFields rfl (.inr rfl)

end Sys2Proof.Laws.FixedBits
end

