-- ==== Sys2Proof/Tests/Slice0.lean ====
section
/-! SUPPORT. The model's own tests: the well-formedness smoke tests, words written out from the spec's encodings, execution
vectors of spec/95_test_vectors.md (by their ids), and a witness for the hypotheses of each statement. -/

namespace Sys2Proof.Tests

open Sys2Proof.Machine Sys2Proof.Spec

/-! ## WellFormed refuses an ill-formed term, for each check -/

theorem test_wellFormed_refuses_cond_1111 : (Instr.vldmdbA2 15 0 0 0 1).wellFormed = false := by decide

theorem test_wellFormed_refuses_odd_imm8_of_a_double : (Instr.vldmdbT1 0 0 0 3).wellFormed = false := by decide

theorem test_wellFormed_refuses_a_vpop_written_as_vldm : (Instr.vldmT2 0 1 13 0 1).wellFormed = false := by decide

theorem test_wellFormed_takes_sp_without_writeback : (Instr.vldmT2 0 0 13 0 1).wellFormed = true := by decide

/-! ## Words written out from R81 to R84 (E1 to E20, V20, V21) and the refused neighbours (V24 to V27) -/

theorem test_decode_E1_vldm_A1 : decodeWord .a32 0xEC900B08 = .ok (.vldmA1 14 0 0 0 0 8) := by decide

theorem test_decode_E5_vldm_A1_high_D : decodeWord .a32 0xECD20B20 = .ok (.vldmA1 14 1 0 2 0 32) := by decide

theorem test_decode_E6_vldm_A1_cond : decodeWord .a32 0x0CF3FB02 = .ok (.vldmA1 0 1 1 3 15 2) := by decide

theorem test_decode_E3_vldmdb_A1 : decodeWord .a32 0xED314B04 = .ok (.vldmdbA1 14 0 1 4 4) := by decide

theorem test_decode_E4_vpop_A1 : decodeWord .a32 0xECBD8B10 = .ok (.vpopA1 14 0 8 16) := by decide

theorem test_decode_V20_undefined_A1 : decodeWord .a32 0xEC300B02 = .ok (.undef001A1 14 0 0 0 2) := by decide

theorem test_decode_undefined_111_A1 : decodeWord .a32 0x0DB00B00 = .ok (.undef111A1 0 0 0 0 0) := by decide

theorem test_decode_E8_vldm_A2 : decodeWord .a32 0xECF00A02 = .ok (.vldmA2 14 1 1 0 0 2) := by decide

theorem test_decode_E9_vldmdb_A2 : decodeWord .a32 0xED34FA02 = .ok (.vldmdbA2 14 0 4 15 2) := by decide

theorem test_decode_E12_vpop_A2 : decodeWord .a32 0xECBD8A04 = .ok (.vpopA2 14 0 8 4) := by decide

theorem test_decode_undefined_001_A2 : decodeWord .a32 0x0C300A00 = .ok (.undef001A2 0 0 0 0 0) := by decide

theorem test_decode_V21_undefined_A2 : decodeWord .a32 0xEDB00A02 = .ok (.undef111A2 14 0 0 0 2) := by decide

theorem test_decode_E15_vldm_T1_bytes : decode .t32 [0x90, 0xEC, 0x08, 0x0B] = .ok (.vldmT1 0 0 0 0 8) := by decide

theorem test_decode_E16_vldmdb_T1_bytes : decode .t32 [0x31, 0xED, 0x04, 0x4B] = .ok (.vldmdbT1 0 1 4 4) := by decide

theorem test_decode_E17_vpop_T1_bytes : decode .t32 [0xBD, 0xEC, 0x10, 0x8B] = .ok (.vpopT1 0 8 16) := by decide

theorem test_decode_undefined_001_T1 : decodeWord .t32 0xEC300B00 = .ok (.undef001T1 0 0 0 0) := by decide

theorem test_decode_undefined_111_T1 : decodeWord .t32 0xEDB00B00 = .ok (.undef111T1 0 0 0 0) := by decide

theorem test_decode_E18_vldm_T2_bytes : decode .t32 [0xF0, 0xEC, 0x02, 0x0A] = .ok (.vldmT2 1 1 0 0 2) := by decide

theorem test_decode_E19_vldmdb_T2_bytes : decode .t32 [0x34, 0xED, 0x02, 0xFA] = .ok (.vldmdbT2 0 4 15 2) := by decide

theorem test_decode_E20_vpop_T2_bytes : decode .t32 [0xBD, 0xEC, 0x04, 0x8A] = .ok (.vpopT2 0 8 4) := by decide

theorem test_decode_undefined_001_T2 : decodeWord .t32 0xEC300A00 = .ok (.undef001T2 0 0 0 0) := by decide

theorem test_decode_undefined_111_T2 : decodeWord .t32 0xEDB00A00 = .ok (.undef111T2 0 0 0 0) := by decide

theorem test_decode_E1_bytes : decode .a32 [0x08, 0x0B, 0x90, 0xEC] = .ok (.vldmA1 14 0 0 0 0 8) := by decide

theorem test_decode_V24_fldmx : decodeWord .a32 0xEC900B03 = .reject .fldmx := by decide

theorem test_decode_V25_related : decodeWord .a32 0xEC100B02 = .reject .relatedEncodings := by decide

theorem test_decode_V26_vldr : decodeWord .a32 0xED900B02 = .reject .vldr := by decide

theorem test_decode_V27_cond_1111 : decodeWord .a32 0xFC900B02 = .reject .cond1111 := by decide

theorem test_decode_t32_other_halfword : decode .t32 [0x00, 0xBF] = .reject .not1110110x := by decide

theorem test_decode_t32_second_halfword_missing : decode .t32 [0x90, 0xEC] = .reject .truncated := by decide

/-! ## The assembler (E11, R102, R103) -/

theorem test_assemble_E11 :
    (assemble .a32 ⟨.vldmia, some 1, none, some 32, true, 6, true, 5, 5⟩).map encode = some 0x1CF62A01 := by decide

theorem test_assemble_E4_vpop :
    (assemble .a32 ⟨.vpop, none, none, none, false, 13, true, 8, 15⟩).map encode = some 0xECBD8B10 := by decide

theorem test_assemble_refuses_17_doubles :
    assemble .a32 ⟨.vldmia, none, none, none, false, 0, false, 0, 16⟩ = none := by decide

theorem test_disassemble_undefined_has_no_syntax : disassemble (.undef001A1 14 0 0 0 2) = none := by decide

/-! ## Execution (95_test_vectors 2.2 to 2.4, with the part of its fixture that each vector reads) -/

/-- `mem[base + i] = i's low byte of the address` for `n` bytes from 0x1000 + `off`, registers as given, D registers
0xAAAAAAAA000000ii, pc = 0x8000. -/
def fixture (off n : Nat) (rs : List (Nat × Word)) : State :=
  { State.reset with
    mem := (List.range n).map fun i => (0x1000 + off + i, BitVec.ofNat 8 (off + i))
    d := Vector.ofFn fun i => BitVec.ofNat 64 (0xAAAAAAAA00000000 + i.val)
    r := rs.foldl (fun v p => v.setIfInBounds p.1 p.2) (Vector.replicate 15 0)
    pc := 0x8000 }

/-- One step on a one-word text. -/
def run1 (iset : ISet) (w : Word) (s : State) : Host.Outcome State Fault Refusal := step (s.withText1 iset w)

/-- Looks at the next state, when there is one. -/
def onNext {α : Type} (o : Host.Outcome State Fault Refusal) (f : State → α) : Option α :=
  match o with
  | .next t => some (f t)
  | _ => none

/-- The Data Abort of an outcome, when it is one. -/
def abortOf (o : Host.Outcome State Fault Refusal) : Option (AbortKind × Word × Option DWord × Word) :=
  match o with
  | .fault (.dataAbort k a t) => some (k, a, t.readD 0, t.pc)
  | _ => none

/-- The refusal of an outcome, when it is one. -/
def refusalOf (o : Host.Outcome State Fault Refusal) : Option Refusal :=
  match o with
  | .refused r => some r
  | _ => none

/-- Whether the outcome is Undefined (true) or a Hyp trap (false). -/
def trapOf (o : Host.Outcome State Fault Refusal) : Option Bool :=
  match o with
  | .fault (.undefined _) => some true
  | .fault (.hypTrap _) => some false
  | _ => none

/-- A launch with another fixed answer of the access check. -/
def withAccess (a : FPAccess) (s : State) : State := { s with launch := { s.launch with fpAccess := .fixed a } }

theorem test_V3_vldm_A1_little_endian :
    onNext (run1 .a32 0xECB00B08 (fixture 16 32 [(0, 0x1010)])) (fun t => (t.readD 0, t.readD 3, t.valueR 0, t.pc)) =
      some (some 0x1716151413121110, some 0x2F2E2D2C2B2A2928, 0x1030, 0x8004) := by decide +kernel

theorem test_V4_vldmdb_A1 :
    onNext (run1 .a32 0xED314B04 (fixture 16 16 [(1, 0x1020)])) (fun t => (t.readD 4, t.readD 5, t.valueR 1)) =
      some (some 0x1716151413121110, some 0x1F1E1D1C1B1A1918, 0x1010) := by decide +kernel

theorem test_V6_vldm_A2_big_endian :
    onNext (run1 .a32 0xEC900A04 { fixture 0 16 [(0, 0x1000)] with e := true }) (fun t => (t.readS 1, t.readD 0)) =
      some (some 0x04050607, some 0x0405060700010203) := by decide +kernel

theorem test_V7_vldm_A2_odd_first :
    onNext (run1 .a32 0xECF00A02 (fixture 8 8 [(0, 0x1008)])) (fun t => (t.readD 0, t.readD 1, t.valueR 0)) =
      some (some 0x0B0A090800000000, some 0xAAAAAAAA0F0E0D0C, 0x1010) := by decide +kernel

theorem test_V8_vldmdb_A2 :
    onNext (run1 .a32 0xED34FA02 (fixture 0x38 8 [(4, 0x1040)])) (fun t => (t.readS 30, t.readS 31, t.valueR 4)) =
      some (some 0x3B3A3938, some 0x3F3E3D3C, 0x1038) := by decide +kernel

theorem test_V9_vpop_A2 :
    onNext (run1 .a32 0xECBD8A04 (fixture 0xF0 16 [(13, 0x10F0)])) (fun t => (t.readS 16, t.readS 19, t.valueR 13)) =
      some (some 0xF3F2F1F0, some 0xFFFEFDFC, 0x1100) := by decide +kernel

theorem test_P1_vpop_A1 :
    onNext (run1 .a32 0xECBD8B04 (fixture 0 16 [(13, 0x1000)])) (fun t => (t.readD 8, t.readD 9, t.valueR 13)) =
      some (some 0x0706050403020100, some 0x0F0E0D0C0B0A0908, 0x1010) := by decide +kernel

theorem test_V13_pc_is_the_base :
    onNext (run1 .a32 0xEC9F0B02 { fixture 0 8 [] with pc := 0x0FF8 }) (fun t => (t.readD 0, t.pc)) =
      some (some 0x0706050403020100, 0x0FFC) := by decide +kernel

theorem test_V30_undefined_condition_fails : onNext (run1 .a32 0x0C300B02 (fixture 0 0 [])) (·.pc) = some 0x8004 := by
  decide +kernel

theorem test_X3_encoding_before_access :
    trapOf (run1 .a32 0xEC300B02 (withAccess .hypTrap (fixture 0 0 []))) = some true := by decide +kernel

theorem test_V23_pc_base_in_T32 : refusalOf (run1 .t32 0xEC9F0B02 (fixture 0 0 [])) = some .pcAsBase := by decide +kernel

theorem test_V33_wrap_below : refusalOf (run1 .a32 0xED300B02 (fixture 0 0 [(0, 4)])) = some .addressWrap := by
  decide +kernel

theorem test_V28_vldmdb_T1_big_endian :
    onNext (run1 .t32 0xED314B04 { fixture 16 16 [(1, 0x1020)] with e := true })
      (fun t => (t.readD 4, t.readD 5, t.valueR 1)) =
      some (some 0x1011121314151617, some 0x18191A1B1C1D1E1F, 0x1010) := by decide +kernel

theorem test_P3_vldm_T2_big_endian :
    onNext (run1 .t32 0xECF00A02 { fixture 8 8 [(0, 0x1008)] with e := true })
      (fun t => (t.readS 1, t.readS 2, t.valueR 0)) = some (some 0x08090A0B, some 0x0C0D0E0F, 0x1010) := by decide +kernel

theorem test_vldm_T1_no_writeback :
    onNext (run1 .t32 0xEC900B04 (fixture 0 16 [(0, 0x1000)])) (fun t => (t.readD 1, t.valueR 0)) =
      some (some 0x0F0E0D0C0B0A0908, 0x1000) := by decide +kernel

theorem test_V29_vpop_T1 :
    onNext (run1 .t32 0xECBD8B04 (fixture 0 16 [(13, 0x1000)])) (fun t => (t.readD 9, t.valueR 13)) =
      some (some 0x0F0E0D0C0B0A0908, 0x1010) := by decide +kernel

theorem test_vldmdb_T2 :
    onNext (run1 .t32 0xED34FA02 (fixture 0x38 8 [(4, 0x1040)])) (fun t => (t.readS 30, t.valueR 4)) =
      some (some 0x3B3A3938, 0x1038) := by decide +kernel

theorem test_vpop_T2 :
    onNext (run1 .t32 0xECBD8A02 (fixture 0 8 [(13, 0x1000)])) (fun t => (t.readS 17, t.valueR 13)) =
      some (some 0x07060504, 0x1008) := by decide +kernel

theorem test_undefined_T32 : trapOf (run1 .t32 0xEDB00A00 (fixture 0 0 [])) = some true := by decide +kernel

theorem test_vldmdb_A2_misaligned :
    abortOf (run1 .a32 0xED34FA02 (fixture 0x38 8 [(4, 0x1042)])) =
      some (.alignment, 0x103A, some 0xAAAAAAAA00000000, 0x8000) := by decide +kernel

theorem test_vpop_A2_unmapped :
    abortOf (run1 .a32 0xECBD8A04 (fixture 0xF8 8 [(13, 0x10F8)])) =
      some (.access, 0x1100, some 0xAAAAAAAA00000000, 0x8000) := by decide +kernel

theorem test_vpop_A1_access_before_alignment :
    trapOf (run1 .a32 0xECBD8B04 (withAccess .hypTrap (fixture 0 0 [(13, 0x1002)]))) = some false := by decide +kernel

theorem test_vldm_T2_access_undefined :
    trapOf (run1 .t32 0xECF00A02 (withAccess .undef (fixture 8 8 [(0, 0x1008)]))) = some true := by decide +kernel

theorem test_vldmdb_T2_pc_base_before_access :
    refusalOf (run1 .t32 0xED3FFA02 (withAccess .undef (fixture 0 0 []))) = some .pcAsBase := by decide +kernel

theorem test_vpop_T2_wrap_above : refusalOf (run1 .t32 0xECBD8A02 (fixture 0 0 [(13, 0xFFFFFFFC)])) = some .addressWrap := by
  decide +kernel

theorem test_vpop_T1_it_block_is_refused :
    refusalOf (run1 .t32 0xECBD8B04 { fixture 0 16 [(13, 0x1000)] with itstate := 0x08 }) = some .itBlock := by
  decide +kernel

/-! ## The first word after reset (log 5, log 6) -/

theorem test_placed_word_runs_after_reset :
    onNext (step (State.reset.withFetchWord 32 0xECBD0B00)) (fun t => (t.iset, t.pc)) = some (.t32, 4) := by decide

theorem test_table_words_of_both_sets :
    decodeTableWord 32 0x0C900B00 = some (.vldmA1 0 0 0 0 0 0) ∧
      decodeTableWord 32 0xEC900B00 = some (.vldmT1 0 0 0 0 0) := by decide

/-! ## Witnesses: each statement's hypotheses are met together, each clause of a many-clause statement at a boundary -/

/-- The pieces of `RunsNormally` that evaluate, in an order `decide` can take one by one. -/
theorem runsNormally_of {f : Form} {s : State} (h1 : Passes f.src s) (h2 : BaseOk f s) (h3 : Legal f)
    (h4 : s.fpAccess = .enabled ∧ (startOf f s).toNat % 4 = 0 ∧ (startOf f s).toNat + f.bytes ≤ 2 ^ 32 ∧
      s.pc.toNat + 4 < 2 ^ 32) (h5 : AllMapped f s) : RunsNormally f s :=
  ⟨⟨h1, h2, h3, h4.1, h4.2.1, h4.2.2.1, h5⟩, h4.2.2.2⟩

/-- D30, D31 (the last of the file) loaded from the last 16 bytes of the address space, the pc as high as it can complete. -/
def topState : State :=
  { State.reset with
    mem := (List.range 16).map fun i => (0xFFFFFFF0 + i, BitVec.ofNat 8 i)
    r := Vector.replicate 15 0xFFFFFFF0
    pc := 0xFFFFFFF8 }

/-- The same bytes, with every base one past them (the top of the address space, that is 0). -/
def topStateDB : State := { topState with r := Vector.replicate 15 0 }

/-- The list ends at the last register: a double list D30, D31 and a single list S28 to S31. -/
theorem test_witness_list_ends_at_31 :
    Legal (doubleForm .it true false 1 0 14 4) ∧ Legal (singleForm .it true false 0 0 14 4) := by
  unfold Legal Fits; decide

theorem test_witness_DListsLoadAndComplete :
    (∀ W : BitVec 1, RunsNormally (doubleForm (.field 14) true (W == 1#1) 1 3 14 4) topState) ∧
    RunsNormally (doubleForm (.field 14) false true 1 3 14 4) topStateDB ∧
    RunsNormally (doubleForm (.field 14) true true 1 13 14 4) topState ∧
    (∀ W : BitVec 1, RunsNormally (doubleForm .it true (W == 1#1) 1 3 14 4) { topState with iset := .t32 }) ∧
    RunsNormally (doubleForm .it false true 1 3 14 4) { topStateDB with iset := .t32 } ∧
    RunsNormally (doubleForm .it true true 1 13 14 4) { topState with iset := .t32 } := by
  refine ⟨fun W => ?_, ?_, ?_, fun W => ?_, ?_, ?_⟩ <;>
  · refine runsNormally_of ?_ ?_ ?_ ?_ ?_
    · first | rfl | exact .inl rfl
    · intro h; exact absurd h (by decide +revert)
    · unfold Legal Fits; decide +revert
    · exact ⟨rfl, by decide +kernel +revert, by decide +kernel +revert, by decide +kernel +revert⟩
    · unfold AllMapped; decide +kernel +revert

theorem test_witness_SListsLoadAndComplete :
    (∀ W : BitVec 1, RunsNormally (singleForm (.field 14) true (W == 1#1) 0 3 14 4) topState) ∧
    RunsNormally (singleForm (.field 14) false true 0 3 14 4) topStateDB ∧
    RunsNormally (singleForm (.field 14) true true 0 13 14 4) topState ∧
    (∀ W : BitVec 1, RunsNormally (singleForm .it true (W == 1#1) 0 3 14 4) { topState with iset := .t32 }) ∧
    RunsNormally (singleForm .it false true 0 3 14 4) { topStateDB with iset := .t32 } ∧
    RunsNormally (singleForm .it true true 0 13 14 4) { topState with iset := .t32 } := by
  refine ⟨fun W => ?_, ?_, ?_, fun W => ?_, ?_, ?_⟩ <;>
  · refine runsNormally_of ?_ ?_ ?_ ?_ ?_
    · first | rfl | exact .inl rfl
    · intro h; exact absurd h (by decide +revert)
    · unfold Legal Fits; decide +revert
    · exact ⟨rfl, by decide +kernel +revert, by decide +kernel +revert, by decide +kernel +revert⟩
    · unfold AllMapped; decide +kernel +revert

/-- The PC as base (A32, no writeback): pc + 8 = 0x1000. -/
theorem test_witness_pc_as_base_runs :
    RunsNormally (doubleForm (.field 14) true false 0 15 0 2) { fixture 0 8 [] with pc := 0x0FF8 } := by
  refine runsNormally_of rfl (fun _ => ⟨rfl, rfl⟩) ?_ ⟨rfl, by decide +kernel, by decide +kernel, by decide +kernel⟩ ?_
  · unfold Legal Fits; decide
  · unfold AllMapped; decide +kernel

/-- Both clauses of `DRegisterAgainstSPair`, E = 0 and E = 1, with the last D register that has an S view. -/
theorem test_witness_DRegisterAgainstSPair (e : Bool) (W : BitVec 1) :
    RunsNormally (doubleForm (srcOf (.vldmA1 14 0 W 0 15 2)) true (W == 1#1) 0 0 15 2)
      { fixture 0 8 [(0, 0x1000)] with e := e } := by
  refine runsNormally_of rfl (fun h => absurd h (by decide +revert)) ?_ ⟨rfl, ?_, ?_, ?_⟩ ?_
  · unfold Legal Fits; decide +revert
  · revert e W; decide +kernel
  · revert e W; decide +kernel
  · revert e W; decide +kernel
  · revert e W; unfold AllMapped; decide +kernel

theorem test_witness_encoding_statements :
    (Instr.vldmA1 14 1 1 15 15 254).wellFormed = true ∧ (Instr.vldmT2 1 0 13 15 255).wellFormed = true ∧
    decodeWord .a32 0xECF00A02 = .ok (.vldmA2 14 1 1 0 0 2) ∧ decodeWord .t32 0xECBD8A04 = .ok (.vpopT2 0 8 4) := by
  decide

/-- All eight values of P U W, in both forms and both instruction sets. -/
theorem test_witness_PuwSelectsMeaning :
    ∀ P U W : BitVec 1,
      OnPage .a32 (encodeFields 0 P U 1 W 13 15 0b1011 254) ∧ OnPage .t32 (encodeFields 14 P U 1 W 13 15 0b1010 255) ∧
      (encodeFields 0 P U 1 W 13 15 0b1011 254).extractLsb' 0 1 = 0#1 ∧
      puw (encodeFields 0 P U 1 W 13 15 0b1011 254) = P ++ U ++ W ∧
      puw (encodeFields 14 P U 1 W 13 15 0b1010 255) = P ++ U ++ W := by
  unfold OnPage; decide

/-- A state that fetches the word, for `NeighbouringWordsAreRefused` and `StepExecutesTheDecodedInstruction`. -/
theorem test_witness_fetches :
    ∀ w : Word, Fetches (State.reset.withText1 .a32 w) w ∧ Fetches (State.reset.withText1 .t32 w) w := by
  intro w
  exact ⟨⟨fun _ => rfl, fun h => (by cases h), 0, by simp [State.withText1], rfl⟩,
    ⟨fun h => (by cases h), fun _ => rfl, 0, by simp [State.withText1], rfl⟩⟩

theorem test_witness_NeighbouringWordsAreRefused :
    OnPage .a32 0x0C100B00 ∧ puw 0x0C100B00 = 0b000#3 ∧ OnPage .t32 0xED100A01 ∧ puw 0xED100A01 = 0b100#3 ∧
    OnPage .a32 0x0C900B01 ∧ isDouble 0x0C900B01 = true ∧ ¬ OnPage .a32 0xE1A00000 ∧ ¬ OnPage .t32 0xEC900900 := by
  unfold OnPage; decide

theorem test_witness_UndefinedMasksRaise :
    0x0DFFFBFE#32 &&& 0x0FB00F01#32 = 0x0DB00B00#32 ∧ 0x0C7FFAFF#32 &&& 0x0FB00F00#32 = 0x0C300A00#32 ∧
    0xEC30FBFE#32 &&& 0xFFB00F01#32 = 0xEC300B00#32 ∧ 0xEDB00AFF#32 &&& 0xFFB00F00#32 = 0xEDB00A00#32 ∧
    Passes (.field 14) State.reset ∧ Passes .it State.reset := by
  refine ⟨by decide, by decide, by decide, by decide, rfl, .inl rfl⟩

/-- Assembled lists at their longest: 16 D registers ending at D31, 32 S registers. -/
theorem test_witness_RegisterListFields :
    assemble .t32 ⟨.vldm, none, none, some 64, false, 2, false, 16, 31⟩ = some (.vldmT1 1 0 2 0 32) ∧
    assemble .a32 ⟨.vldmdb, none, none, none, true, 2, true, 0, 31⟩ = some (.vldmdbA2 14 0 2 0 32) := by decide

/-- Lists that end at D31 and S31, one on the PC base, one VPOP; and lines that the rules allow, at their longest. -/
theorem test_witness_AssembleOfDisassemble :
    (Instr.vldmA1 0 1 0 15 0 32).wellFormed = true ∧ Legal (doubleForm (.field 0) true false 1 15 0 32) ∧
    (Instr.vpopT2 1 15 1).wellFormed = true ∧ Legal (singleForm .it true true 1 13 15 1) ∧
    AllowedLine .a32 ⟨.vldmia, some 0, none, some 64, false, 15, false, 16, 31⟩ ∧
    AllowedLine .t32 ⟨.vpop, some 14, none, some 32, true, 13, true, 0, 31⟩ := by
  refine ⟨by decide, by unfold Legal Fits; decide, by decide, by unfold Legal Fits; decide, ?_, ?_⟩ <;>
  · constructor <;> simp

theorem test_witness_SRegistersAreHalvesOfD : State.reset.readD 15 = some 0 ∧ State.reset.readD 0 = some 0 := by decide

/-- An aligned word with its last byte not mapped, a misaligned address, and a word mapped whole. -/
theorem test_witness_MemReadCases :
    (mappedAt (fixture 0 3 []) 0x1003 = false ∧ mappedAt (fixture 0 3 []) 0x1002 = true) ∧ 0x1003 % 4 ≠ 0 ∧
    ∀ k < 4, mappedAt (fixture 0 4 []) (0x1000 + k) = true := by decide

theorem test_witness_FailedCondition :
    Fails (srcOf (.undef001A1 0 0 0 0 0)) topState ∧ topState.pc.toNat + 4 < 2 ^ 32 ∧
    Fails (srcOf (.undef001T1 0 0 0 0))
      { topState with itstate := 0x08, launch := { topState.launch with itPolicy := .execute } } := by
  refine ⟨?_, by decide, ?_⟩ <;> simp only [Fails, srcOf] <;> decide

theorem test_witness_ItBlockIsRefused :
    ({ State.reset with itstate := 0x10#8 } : State).itstate ≠ 0#8 ∧ State.reset.launch.itPolicy = .refuse := by decide

theorem test_witness_UndefinedRowsRaise :
    isUndefinedRow (.undef111A2 14 0 0 0 0) = true ∧ Passes (srcOf (.undef111A2 14 0 0 0 0)) State.reset ∧
    isUndefinedRow (.undef001T2 0 0 0 0) = true ∧ Passes (srcOf (.undef001T2 0 0 0 0)) State.reset :=
  ⟨rfl, rfl, rfl, .inl rfl⟩

/-- Rn = 1111 with writeback in A32 and without writeback in T32. -/
theorem test_witness_PcAsBaseIsRefused :
    (loadForm (.vldmA2 14 0 1 15 0 0)).map (·.n) = some 15 ∧ (loadForm (.vldmA2 14 0 1 15 0 0)).map (·.wback) = some true ∧
    (loadForm (.vldmT1 0 0 15 0 2)).map (·.n) = some 15 ∧ ({ State.reset with iset := .t32 } : State).iset ≠ .a32 := by
  decide

/-- The reset state with another choice of constrained behaviour and another answer of the access check. -/
def choosing (regs0 : Regs0Choice) (tooMany : TooManyChoice) (a : FPAccess) : State :=
  { State.reset with launch := { State.reset.launch with cu := ⟨regs0, tooMany⟩, fpAccess := .fixed a } }

theorem test_witness_NoRegistersBehaviours :
    (Instr.vldmA1 14 0 1 0 0 0).wellFormed = true ∧ (doubleForm (.field 14) true true 0 0 0 0).count = 0 ∧
    BaseOk (doubleForm (.field 14) true true 0 0 0 0) State.reset ∧
    ∀ a, Passes (.field 14) (choosing .noLoad .nop a) ∧ (choosing .noLoad .nop a).fpAccess = a ∧
      (choosing .undefined .nop a).launch.cu.regs0 = .undefined :=
  ⟨by decide, by decide, fun h => absurd h (by decide), fun _ => ⟨rfl, rfl, rfl⟩⟩

/-- 17 D registers, and lists that end at number 32 (D31 with D32, S31 with S32). -/
theorem test_witness_TooManyRegistersBehaviours :
    ¬ Fits (doubleForm .it true false 0 0 0 34) ∧ ¬ Fits (doubleForm .it true true 1 0 15 4) ∧
    ¬ Fits (singleForm .it true false 1 0 15 2) ∧ BaseOk (doubleForm .it true true 1 0 15 4) State.reset ∧
    ∀ e, Passes .it (choosing .nop (.unknown e) .enabled) ∧
      (choosing .nop (.unknown e) .enabled).launch.cu.tooMany = .unknown e := by
  refine ⟨?_, ?_, ?_, fun h => absurd h (by decide), fun _ => ⟨.inl rfl, rfl⟩⟩ <;> unfold Fits <;> decide

theorem test_witness_AccessCheckOutcomes :
    ∀ a, Passes (.field 14) (choosing .nop .nop a) ∧ BaseOk (singleForm (.field 14) true true 0 0 0 32) (choosing .nop .nop a) ∧
      Legal (singleForm (.field 14) true true 0 0 0 32) ∧ (choosing .nop .nop a).fpAccess = a := by
  intro a
  exact ⟨rfl, fun h => absurd h (by decide), by unfold Legal Fits; decide, rfl⟩

/-- A reserved cp10 outside Hyp mode with EN = 0 is Undefined, whatever the free value is (R175: the EN test has no exception). -/
theorem test_reserved_cp10_without_enable :
    outlineAccess { SysRegs.reset with cpacr := 0x00A00000 } = .undef := by
  unfold outlineAccess; split <;> rfl

/-- The clauses of the outline, each with settings that meet it: cp10 = 01 in a privileged mode and Hyp mode with a reserved cp10
and NSACR.cp10 = 0 among them. -/
theorem test_witness_OutlineOfTheAccessCheck :
    outlineAccess { SysRegs.reset with security := .nonSecure, cpacr := 0x00F00000 } = .undef ∧
    outlineAccess SysRegs.reset = .undef ∧
    outlineAccess { SysRegs.reset with mode := .user, cpacr := 0x00500000, fpexc := 0x40000000 } = .undef ∧
    outlineAccess { SysRegs.reset with cpacr := 0x00F00000 } = .undef ∧
    outlineAccess { SysRegs.reset with mode := .hyp, cpacr := 0x00A00000 } = .undef ∧
    outlineAccess { SysRegs.reset with mode := .hyp, cpacr := 0x00F00000, fpexc := 0x40000000, hcptr := 0x400 } = .hypTrap ∧
    outlineAccess { SysRegs.reset with mode := .hyp, security := .nonSecure, cpacr := 0x00A00000, fpexc := 0x40000000 } =
      .enabled ∧
    outlineAccess { SysRegs.reset with cpacr := 0x00500000, fpexc := 0x40000000 } = .enabled ∧
    outlineAccess { SysRegs.reset with cpacr := 0x00F00000, fpexc := 0x40000000 } = .enabled := by decide

/-- A misaligned start, and an aligned one whose last word is not mapped; neither wraps. -/
theorem test_witness_DataAbortState :
    NoWrap (doubleForm (.field 14) true true 0 0 0 4) (fixture 0 12 [(0, 0x1000)]) ∧
    ¬ AllMapped (doubleForm (.field 14) true true 0 0 0 4) (fixture 0 12 [(0, 0x1000)]) ∧
    (startOf (doubleForm (.field 14) true true 0 0 0 4) (fixture 0 12 [(0, 0x1000)])).toNat % 4 = 0 ∧
    (startOf (doubleForm (.field 14) true true 0 0 0 4) (fixture 0 20 [(0, 0x1002)])).toNat % 4 ≠ 0 ∧
    Legal (doubleForm (.field 14) true true 0 0 0 4) := by
  refine ⟨?_, ?_, by decide +kernel, by decide +kernel, ?_⟩
  · unfold NoWrap; decide +kernel
  · unfold AllMapped; decide +kernel
  · unfold Legal Fits; decide

/-- One word past the top: start 0xFFFFFFFC with 8 bytes; and the highest start that does not wrap is not one of these. -/
theorem test_witness_AddressWrapIsRefused :
    ¬ NoWrap (doubleForm (.field 14) true true 0 0 0 2) (fixture 0 0 [(0, 0xFFFFFFFC)]) ∧
    NoWrap (doubleForm (.field 14) true true 0 0 0 2) (fixture 0 0 [(0, 0xFFFFFFF8)]) := by
  unfold NoWrap; decide +kernel

/-- pc + 4 = 2^32 exactly: a failed condition, a transfer that is done (A32, and T32 outside an IT block), and the constrained
behaviours that advance pc. -/
theorem test_witness_PcWrapIsRefused :
    2 ^ 32 ≤ ({ topState with pc := 0xFFFFFFFC } : State).pc.toNat + 4 ∧
    Fails (.field 0) { topState with pc := 0xFFFFFFFC } ∧
    Transfers (doubleForm (.field 14) true true 1 3 14 4) { topState with pc := 0xFFFFFFFC } ∧
    Transfers (doubleForm .it true true 1 3 14 4) { topState with pc := 0xFFFFFFFC, iset := .t32 } ∧
    ConstrainedAdvance (doubleForm .it true true 1 3 14 0) { topState with pc := 0xFFFFFFFC } ∧
    ConstrainedAdvance (doubleForm .it true true 1 3 14 0)
      { choosing .noLoad .nop .enabled with pc := 0xFFFFFFFC } ∧
    ConstrainedAdvance (doubleForm .it true true 1 3 15 4)
      { choosing .nop (.unknown .completes) .enabled with pc := 0xFFFFFFFC } := by
  refine ⟨by decide, ?_, ?_, ?_, ⟨.inl rfl, ?_, .inl ⟨by decide, .inl rfl⟩⟩, ⟨.inl rfl, ?_, .inl ⟨by decide, .inr ⟨rfl, rfl⟩⟩⟩,
    ⟨.inl rfl, ?_, .inr ⟨by decide, ?_, .inr rfl⟩⟩⟩
  · unfold Fails; decide
  · exact ⟨rfl, fun h => absurd h (by decide), by unfold Legal Fits; decide, rfl, by decide +kernel,
      by unfold NoWrap; decide +kernel, by unfold AllMapped; decide +kernel⟩
  · exact ⟨.inl rfl, fun h => absurd h (by decide), by unfold Legal Fits; decide, rfl, by decide +kernel,
      by unfold NoWrap; decide +kernel, by unfold AllMapped; decide +kernel⟩
  · exact fun h => absurd h (by decide)
  · exact fun h => absurd h (by decide)
  · exact fun h => absurd h (by decide)
  · unfold Fits; decide

/-- A next state of a VLDM and of an UNDEFINED row, for the two frame statements. -/
theorem test_witness_frames :
    onNext (exec (.vldmA1 14 0 1 0 0 4) (fixture 0 16 [(0, 0x1000)])) (·.pc) = some 0x8004 ∧
    onNext (exec (.undef111A1 0 0 0 0 0) State.reset) (·.pc) = some 4 := by decide +kernel

/-- One fault of each kind, with a list that fits. -/
theorem test_witness_FaultsArePrecise :
    trapOf (exec (.undef001A1 14 0 0 0 0) State.reset) = some true ∧
    trapOf (exec (.vldmA1 14 0 1 0 0 4) (choosing .nop .nop .hypTrap)) = some false ∧
    abortOf (exec (.vldmA1 14 0 1 0 0 4) State.reset) = some (.access, 0, none, 0) ∧
    Fits (doubleForm (.field 14) true true 0 0 0 4) := by
  refine ⟨by decide +kernel, by decide +kernel, by decide +kernel, ?_⟩
  unfold Fits; decide

theorem test_witness_T32ActsAsA32Always : State.reset.itstate = 0#8 ∧ (14#4 : BitVec 4) ≠ 15#4 := by decide

/-- The hypotheses of the two relational statements: a DB list whose start is the top state's, and an IA list with room for two
instructions. -/
theorem test_witness_relational :
    RunsNormally (doubleForm (.field 14) false true 1 3 14 4) topStateDB ∧ topStateDB.unknownR[3]? = some false ∧
    RunsNormally (doubleForm (.field 14) true true 0 0 0 2) (fixture 0 8 [(0, 0x1000)]) ∧
    (fixture 0 8 [(0, 0x1000)]).pc.toNat + 8 < 2 ^ 32 := by
  refine ⟨test_witness_DListsLoadAndComplete.2.1, by decide, ?_, by decide⟩
  refine runsNormally_of rfl (fun h => absurd h (by decide)) ?_
    ⟨rfl, by decide +kernel, by decide +kernel, by decide +kernel⟩ ?_
  · unfold Legal Fits; decide
  · unfold AllMapped; decide +kernel

/-- The end of a one-word text, a pc below it, and a pc between two instructions. -/
theorem test_witness_NothingRunsOutsideTheText :
    ({ State.reset.withText1 .a32 0 with pc := 4 } : State).ended = true ∧
    ({ State.reset.withText1 .t32 0 with pc := 2 } : State).inText = false ∧
    pcAligned .t32 2 = true ∧ ({ State.reset with pc := 2 } : State).pc.toNat % 4 ≠ 0 := by decide

/-- A state that meets the invariant and has a step to take. -/
theorem test_witness_StepKeepsTheInvariant :
    (State.reset.withText1 .a32 0x0C300B02).Inv ∧
    onNext (step (State.reset.withText1 .a32 0x0C300B02)) (·.pc) = some 4 :=
  ⟨⟨rfl, by decide, by decide, fun _ => rfl⟩, by decide⟩

/-- A run of one step that reaches the end of its text. -/
theorem test_witness_RunsAreFinite :
    (State.reset.withText1 .a32 0x0C300B02).remaining = 1 ∧
    onNext (Host.Core.run Sys2Proof.core 1 (State.reset.withText1 .a32 0x0C300B02)) (·.ended) = some true := by decide

theorem test_witness_PlacedWordRuns : decodeTableWord 32 0xEDB00A02 = some (.undef111T2 0 0 0 2) := by decide

end Sys2Proof.Tests
end

section
/-! SUPPORT. What the shared operations do in the statements' own vocabulary: conditions, completion, the fetch, the frame of
the SIMD&FP file, and each row's meaning as `vldm` of its form or as `undefinedWord`. -/

namespace Sys2Proof.Spec

open Sys2Proof.Machine

/-! ## Conditions and completion (R24, R30, R33) -/

section Completion

variable {src : CondSource} {s t : State}

/-- The model's step of `itstate` (fields joined) is the statements' (masks). -/
theorem itAfter_eq_nextIt (src : CondSource) (it : BitVec 8) : itAfter src it = nextIt src it := by
  cases src with
  | field c => rfl
  | it => revert it; decide

@[simp] theorem nextIt_zero (src : CondSource) : nextIt src 0#8 = 0#8 := by cases src <;> rfl

theorem currentCond_of_passes (h : Passes src s) : ∃ c, currentCond src s = some c ∧ condHolds c s.flags = true := by
  cases src with
  | field c => exact ⟨c, rfl, h⟩
  | it =>
    by_cases h0 : s.itstate = 0#8
    · exact ⟨0b1110#4, by simp [currentCond, h0], rfl⟩
    · obtain ⟨hp, hc⟩ := Or.resolve_left h h0
      refine ⟨itCond s.itstate, by simp [currentCond, h0, hp], ?_⟩
      unfold itCond
      split
      · rfl
      · exact hc.resolve_left ‹_›

theorem currentCond_of_fails (h : Fails src s) : ∃ c, currentCond src s = some c ∧ condHolds c s.flags = false := by
  cases src with
  | field c => exact ⟨c, rfl, h⟩
  | it =>
    obtain ⟨h0, hp, hlow, hc⟩ := h
    exact ⟨itCond s.itstate, by simp [currentCond, h0, hp], by simpa [itCond, hlow] using hc⟩

theorem conditional_of_passes {passed : Host.Outcome State Fault Refusal} (h : Passes src s) :
    conditional src s passed = passed := by
  obtain ⟨c, hc, hh⟩ := currentCond_of_passes h
  simp [conditional, hc, hh]

theorem conditional_of_fails {passed : Host.Outcome State Fault Refusal} (h : Fails src s) :
    conditional src s passed = complete src s := by
  obtain ⟨c, hc, hh⟩ := currentCond_of_fails h
  simp [conditional, hc, hh]

theorem conditional_itBlock {passed : Host.Outcome State Fault Refusal} (h0 : s.itstate ≠ 0#8)
    (hp : s.launch.itPolicy = .refuse) : conditional .it s passed = .refused .itBlock := by
  simp [conditional, currentCond, h0, hp]

theorem complete_eq_advanced (h : s.pc.toNat + 4 < 2 ^ 32) : complete src s = .next (advanced src s) := by
  rw [complete_next_iff, advanced, itAfter_eq_nextIt]
  exact ⟨h, rfl⟩

theorem complete_eq_pcWrap (h : 2 ^ 32 ≤ s.pc.toNat + 4) : complete src s = .refused .pcWrap :=
  if_neg (Nat.not_lt.mpr h)

theorem eq_advanced_of_complete (h : complete src s = .next t) : s.pc.toNat + 4 < 2 ^ 32 ∧ t = advanced src s := by
  rwa [complete_next_iff, itAfter_eq_nextIt] at h

end Completion

/-! ## The fetch (R24, R203, R205) -/

section Fetch

variable {s t : State} {w : Word}

theorem pcAligned_iff (iset : ISet) (pc : Word) :
    pcAligned iset pc = true ↔ (iset = .a32 → pc.toNat % 4 = 0) ∧ (iset = .t32 → pc.toNat % 2 = 0) := by
  cases iset <;> simp [pcAligned, ← BitVec.toNat_inj]

theorem inText_iff (s : State) :
    s.inText = true ↔ s.launch.base.toNat ≤ s.pc.toNat ∧ (s.pc.toNat - s.launch.base.toNat) % 4 = 0 ∧
      s.pc.toNat ≤ s.launch.base.toNat + 4 * s.launch.text.length := by
  simp [State.inText, and_assoc]

/-- The fetch gives a word exactly where R203 says. -/
theorem fetch_word_iff : fetch s = .word w ↔ Fetches s w := by
  unfold Fetches
  rw [← and_assoc, ← pcAligned_iff]
  constructor
  · intro h
    unfold fetch at h
    split at h
    · cases h
    · next ha =>
      split at h
      · cases h
      · next hb =>
        split at h
        · next w' hw =>
          cases h
          exact ⟨by simpa using ha, _, by omega, hw⟩
        · split at h <;> cases h
  · rintro ⟨ha, i, hpc, hw⟩
    have hidx : (s.pc.toNat - s.launch.base.toNat) / 4 = i := by omega
    have hin : ¬ (s.pc.toNat < s.launch.base.toNat ∨ (s.pc.toNat - s.launch.base.toNat) % 4 ≠ 0) := by omega
    simp only [fetch, ha, Bool.true_eq_false, if_false, if_neg hin, hidx, hw]

theorem fetch_misaligned (h : pcAligned s.iset s.pc = false) : fetch s = .refused .pcMisaligned := if_pos h

theorem fetch_endOfText (ha : pcAligned s.iset s.pc = true)
    (h : s.pc.toNat = s.launch.base.toNat + 4 * s.launch.text.length) : fetch s = .refused .endOfText := by
  have hidx : (s.pc.toNat - s.launch.base.toNat) / 4 = s.launch.text.length := by omega
  have hin : ¬ (s.pc.toNat < s.launch.base.toNat ∨ (s.pc.toNat - s.launch.base.toNat) % 4 ≠ 0) := by omega
  simp only [fetch, ha, Bool.true_eq_false, if_false, if_neg hin, hidx, List.getElem?_length, if_pos h]

theorem fetch_outsideText (ha : pcAligned s.iset s.pc = true) (h : s.inText = false) :
    fetch s = .refused .outsideText := by
  simp only [fetch, ha, Bool.true_eq_false, if_false]
  split
  · rfl
  · next hb =>
    have hpast : ¬ s.pc.toNat ≤ s.launch.base.toNat + 4 * s.launch.text.length := fun hle =>
      Bool.false_ne_true (h.symm.trans ((inText_iff s).mpr ⟨by omega, by omega, hle⟩))
    have hidx : s.launch.text[(s.pc.toNat - s.launch.base.toNat) / 4]? = none := List.getElem?_eq_none (by omega)
    have hend : s.pc.toNat ≠ s.launch.base.toNat + 4 * s.launch.text.length := by omega
    simp only [hidx, if_neg hend]

theorem step_of_fetch_refused {r : Refusal} (h : fetch s = .refused r) : step s = .refused r := by
  simp only [step, h]

/-- A step that answers a next state has executed the instruction it fetched and decoded. -/
theorem step_next (h : step s = .next t) :
    ∃ w i, Fetches s w ∧ decodeWord s.iset w = .ok i ∧ exec i s = .next t := by
  unfold step at h
  split at h
  · cases h
  · next w hw =>
    split at h
    · cases h
    · next i hi => exact ⟨w, i, fetch_word_iff.mp hw, hi, h⟩

/-- Past a fetched word the text goes on or ends. -/
theorem inText_of_fetches_pc_add_four (hw : Fetches s w) (hpc : t.pc.toNat = s.pc.toNat + 4)
    (hl : t.launch = s.launch) : t.inText = true := by
  obtain ⟨-, -, i, hi, hget⟩ := hw
  obtain ⟨hlt, -⟩ := List.getElem?_eq_some_iff.mp hget
  rw [inText_iff, hl]
  omega

end Fetch

/-! ## Each row's meaning -/

/-- The page's operands of a form. -/
def Form.operands (f : Form) : Operands :=
  { singleRegs := !f.double, add := f.add, wback := f.wback, d := f.first, n := f.n, imm32 := BitVec.ofNat 32 f.bytes,
    regs := f.count }

theorem offset_eq_ofNat (imm8 : BitVec 8) : offset imm8 = BitVec.ofNat 32 (4 * imm8.toNat) := by
  apply BitVec.eq_of_toNat_eq
  simp only [offset, BitVec.toNat_setWidth, toNat_append_add, BitVec.toNat_ofNat]
  omega

theorem operands_doubleForm (src : CondSource) (add wback : Bool) (D : BitVec 1) (Rn Vd : BitVec 4) (imm8 : BitVec 8) :
    (doubleForm src add wback D Rn Vd imm8).operands = doubleOperands add wback D Rn Vd imm8 := by
  have hd : firstDouble D Vd = 16 * D.toNat + Vd.toNat := by rw [firstDouble, toNat_append_add]; omega
  simp [Form.operands, doubleForm, doubleOperands, hd, offset_eq_ofNat, countDouble]

theorem operands_singleForm (src : CondSource) (add wback : Bool) (D : BitVec 1) (Rn Vd : BitVec 4) (imm8 : BitVec 8) :
    (singleForm src add wback D Rn Vd imm8).operands = singleOperands add wback D Rn Vd imm8 := by
  have hd : firstSingle D Vd = 2 * Vd.toNat + D.toNat := by rw [firstSingle, toNat_append_add]; omega
  simp [Form.operands, singleForm, singleOperands, hd, offset_eq_ofNat, countSingle]

/-- A VLDM, VLDMDB or VPOP row is the step of R130 with its form's operands. -/
theorem exec_of_loadForm {i : Instr} {f : Form} (h : loadForm i = some f) (s : State) :
    exec i s = vldm f.src f.operands s := by
  cases i with
  | vldmA1 | vldmdbA1 | vpopA1 | vldmT1 | vldmdbT1 | vpopT1 => cases h; rw [operands_doubleForm]; rfl
  | vldmA2 | vldmdbA2 | vpopA2 | vldmT2 | vldmdbT2 | vpopT2 => cases h; rw [operands_singleForm]; rfl
  | undef001A1 | undef111A1 | undef001A2 | undef111A2 | undef001T1 | undef111T1 | undef001T2 | undef111T2 => cases h

theorem srcOf_of_loadForm {i : Instr} {f : Form} (h : loadForm i = some f) : srcOf i = f.src := by
  cases i <;> cases h <;> rfl

/-- A row of R94 is the step of R135. -/
theorem exec_of_isUndefinedRow {i : Instr} (h : isUndefinedRow i = true) (s : State) :
    exec i s = undefinedWord (srcOf i) s := by
  cases i <;> cases h <;> rfl

theorem loadForm_or_isUndefinedRow (i : Instr) : (∃ f, loadForm i = some f) ∨ isUndefinedRow i = true := by
  cases i <;> simp [loadForm, isUndefinedRow]

theorem srcOf_of_t32 {i : Instr} (h : i.iset = .t32) : srcOf i = .it := by
  cases i <;> cases h <;> rfl

/-- Every row tests its condition first (R130 step 1, R135). -/
theorem exec_eq_conditional (i : Instr) (s : State) : ∃ passed, exec i s = conditional (srcOf i) s passed := by
  obtain ⟨f, hf⟩ | hu := loadForm_or_isUndefinedRow i
  · exact ⟨_, by rw [exec_of_loadForm hf, srcOf_of_loadForm hf, vldm]⟩
  · exact ⟨_, exec_of_isUndefinedRow hu s⟩

theorem exec_of_fails {i : Instr} {s : State} (h : Fails (srcOf i) s) : exec i s = complete (srcOf i) s := by
  obtain ⟨passed, hp⟩ := exec_eq_conditional i s
  rw [hp, conditional_of_fails h]

theorem exec_itBlock {i : Instr} {s : State} (hi : srcOf i = .it) (h0 : s.itstate ≠ 0#8)
    (hp : s.launch.itPolicy = .refuse) : exec i s = .refused .itBlock := by
  obtain ⟨passed, he⟩ := exec_eq_conditional i s
  rw [he, hi, conditional_itBlock h0 hp]

/-! ## What no row changes: the fixed parts, pc and itstate until it completes -/

/-- `t` has the parts of `s` that only completion moves, and those that nothing moves. -/
structure SameControl (s t : State) : Prop where
  fixed : s.SameFixed t
  pc : t.pc = s.pc
  itstate : t.itstate = s.itstate

theorem SameControl.refl (s : State) : SameControl s s := ⟨⟨rfl, rfl, rfl, rfl, rfl, rfl⟩, rfl, rfl⟩

section Control

variable {src : CondSource} {o : Operands} {s s' t : State}

theorem sameControl_writeBack_of_loadList {a base : Word} (h : loadList o a (s.afterReadR o.n) = .ok s') :
    SameControl s (writeBack o base s') := by
  rw [loadList_ok_same h, writeBack]
  split <;> exact ⟨⟨by simp, by simp, by simp, by simp, by simp, by simp⟩, by simp, by simp⟩

theorem sameControl_forgetUnder (s : State) (o : Operands) : SameControl s (s.forgetUnder o) := by
  unfold State.forgetUnder
  split <;> exact ⟨⟨by simp, by simp, by simp, by simp, by simp, by simp⟩, by simp, by simp⟩

/-- A VLDM, VLDMDB or VPOP that answers a next state has completed from a state whose control is as before. -/
theorem vldm_next_completes (h : vldm src o s = .next t) : ∃ s', SameControl s s' ∧ complete src s' = .next t := by
  obtain hc | ⟨-, htr⟩ | ⟨-, hc⟩ := vldm_next h
  · exact ⟨s, .refl s, hc⟩
  · obtain ⟨s', hl, hc⟩ := transfer_next htr
    exact ⟨_, sameControl_writeBack_of_loadList hl, hc⟩
  · exact ⟨_, sameControl_forgetUnder s o, hc⟩

theorem exec_next_completes {i : Instr} (h : exec i s = .next t) :
    ∃ s', SameControl s s' ∧ complete (srcOf i) s' = .next t := by
  obtain ⟨f, hf⟩ | hu := loadForm_or_isUndefinedRow i
  · rw [exec_of_loadForm hf] at h
    rw [srcOf_of_loadForm hf]
    exact vldm_next_completes h
  · rw [exec_of_isUndefinedRow hu] at h
    exact ⟨s, .refl s, undefinedWord_next h⟩

/-- What an instruction of any row that answers a next state leaves, and how it moves pc and itstate. -/
theorem exec_next_control {i : Instr} (h : exec i s = .next t) :
    s.SameFixed t ∧ s.pc.toNat + 4 < 2 ^ 32 ∧ t.pc = s.pc + 4 ∧ t.itstate = nextIt (srcOf i) s.itstate := by
  obtain ⟨s', ⟨⟨hfl, his, he, hm, hsys, hl⟩, hpc, hit⟩, hc⟩ := exec_next_completes h
  obtain ⟨hlt, rfl⟩ := eq_advanced_of_complete hc
  rw [hpc] at hlt
  exact ⟨⟨hfl, his, he, hm, hsys, hl⟩, hlt, by rw [advanced, hpc], by rw [advanced, hit]⟩

/-- Under the spec's IT rule an instruction that answers a next state leaves itstate: A32 never moves it, and T32 runs only
where it is 0. -/
theorem exec_next_itstate_of_refuse {i : Instr} (h : exec i s = .next t) (hp : s.launch.itPolicy = .refuse) :
    t.itstate = s.itstate := by
  obtain ⟨-, -, -, hit⟩ := exec_next_control h
  cases hsrc : srcOf i with
  | field c => rw [hit, hsrc]; rfl
  | it =>
    have h0 : s.itstate = 0#8 := by
      by_contra h0
      rw [exec_itBlock hsrc h0 hp] at h
      cases h
    rw [hit, h0, nextIt_zero]

end Control

/-! ## The frame of the SIMD&FP file -/

section Frame

variable {s t u : State} {h : Nat}

theorem SameHalf.trans (h₁ : SameHalf s t h) (h₂ : SameHalf t u h) : SameHalf s u h :=
  ⟨h₂.1.trans h₁.1, h₂.2.trans h₁.2⟩

/-- A write of one S register leaves every other half. -/
theorem sameHalf_writeS {i : Nat} (w : Word) (hi : h ≠ i) : SameHalf s (s.writeS i w) h := by
  refine ⟨?_, by simp [Ne.symm hi]⟩
  by_cases hd : i / 2 = h / 2
  · by_cases hb : h / 2 < 32
    · obtain ⟨hm, hp⟩ | ⟨hm, hp⟩ : (h % 2 = 0 ∧ i % 2 = 1) ∨ (h % 2 = 1 ∧ i % 2 = 0) := by omega
      · simp [half, hd, hb, hm, State.extractLow_replaceHalf, hp]
      · simp [half, hd, hb, hm, State.extractHigh_replaceHalf, hp]
    · simp [half, hb]
  · simp [half, hd]

/-- A write of one D register leaves the halves of every other one. -/
theorem sameHalf_writeD {i : Nat} (v : DWord) (hi : h / 2 ≠ i) : SameHalf s (s.writeD i v) h := by
  have h0 : 2 * i ≠ h := by omega
  have h1 : 2 * i + 1 ≠ h := by omega
  exact ⟨by simp [half, Ne.symm hi], by simp [h0, h1]⟩

theorem sameHalf_loadSingles {regs i : Nat} {a : Word} (hl : loadSingles regs i a s = .ok t) (hh : h < i ∨ i + regs ≤ h) :
    SameHalf s t h := by
  induction regs generalizing i a s with
  | zero => cases hl; exact ⟨rfl, rfl⟩
  | succ k ih =>
    unfold loadSingles at hl
    split at hl
    · cases hl
    · exact (sameHalf_writeS _ (by omega)).trans (ih hl (by omega))

theorem sameHalf_loadDoubles {regs i : Nat} {a : Word} (hl : loadDoubles regs i a s = .ok t)
    (hh : h < 2 * i ∨ 2 * (i + regs) ≤ h) : SameHalf s t h := by
  induction regs generalizing i a s with
  | zero => cases hl; exact ⟨rfl, rfl⟩
  | succ k ih =>
    unfold loadDoubles at hl
    split at hl
    · cases hl
    · split at hl
      · cases hl
      · exact (sameHalf_writeD _ (by omega)).trans (ih hl (by omega))

/-- The loop of R132 leaves every half outside the list. -/
theorem sameHalf_loadList {f : Form} {a : Word} (hl : loadList f.operands a s = .ok t) (hh : ¬ inList f h) :
    SameHalf s t h := by
  cases hd : f.double with
  | false =>
    simp only [inList, hd] at hh
    simp only [loadList, Form.operands, hd] at hl
    exact sameHalf_loadSingles hl (by simp at hh; omega)
  | true =>
    simp only [inList, hd] at hh
    simp only [loadList, Form.operands, hd] at hl
    exact sameHalf_loadDoubles hl (by simp at hh; omega)

/-- What a form's instruction leaves outside its list and its written-back base. -/
structure SameRegs (f : Form) (s t : State) : Prop where
  halves : ∀ h, ¬ inList f h → SameHalf s t h
  regs : ∀ m, m ≠ f.n ∨ f.wback = false → SameR s t m

theorem SameRegs.refl (f : Form) (s : State) : SameRegs f s s := ⟨fun _ _ => ⟨rfl, rfl⟩, fun _ _ => ⟨rfl, rfl⟩⟩

theorem SameRegs.advanced {f : Form} (h : SameRegs f s t) (src : CondSource) : SameRegs f s (advanced src t) :=
  ⟨h.halves, h.regs⟩

theorem sameRegs_writeBack_of_loadList {f : Form} {a base : Word}
    (hl : loadList f.operands a (s.afterReadR f.n) = .ok t) : SameRegs f s (writeBack f.operands base t) := by
  constructor
  · intro h hh
    have hs := sameHalf_loadList hl hh
    simp only [SameHalf, half, State.afterReadR_d, State.afterReadR_unknownS] at hs ⊢
    unfold writeBack
    split <;> exact hs
  · intro m hm
    rw [loadList_ok_same hl, writeBack]
    split
    · next hw =>
      have hne : f.operands.n ≠ m := fun he => hm.elim (fun h => h he.symm) (fun h => by simp_all [Form.operands])
      simp [SameR, hne]
    · simp [SameR]

end Frame

/-! ## S registers as halves (R26) -/

theorem readD_eq_some_iff {s : State} {k : Nat} {v : DWord} :
    s.readD k = some v ↔
      s.isUnknownHalf (2 * k) = false ∧ s.isUnknownHalf (2 * k + 1) = false ∧ s.d[k]? = some v := by
  simp [State.readD, and_assoc]

theorem readS_even_of_readD {s : State} {k : Nat} {v : DWord} (hk : k < 16) (h : s.readD k = some v) :
    s.readS (2 * k) = some (v.extractLsb' 0 32) := by
  obtain ⟨hlow, -, hd⟩ := readD_eq_some_iff.mp h
  have hin : ¬ 32 ≤ 2 * k := by omega
  simp [State.readS, hlow, hin, hd]

theorem readS_odd_of_readD {s : State} {k : Nat} {v : DWord} (hk : k < 16) (h : s.readD k = some v) :
    s.readS (2 * k + 1) = some (v.extractLsb' 32 32) := by
  obtain ⟨-, hhigh, hd⟩ := readD_eq_some_iff.mp h
  have hin : ¬ 32 ≤ 2 * k + 1 := by omega
  have hdiv : (2 * k + 1) / 2 = k := by omega
  simp [State.readS, hhigh, hin, hdiv, hd]

/-! ## A list that fits, and the transfer of one that reads -/

theorem tooMany_eq_false_iff (f : Form) : f.operands.tooMany = false ↔ Fits f := by
  have h : f.operands.tooMany = ((!!f.double && decide (16 < f.count)) || decide (32 < f.first + f.count)) := rfl
  rw [h]
  simp [Fits]

/-- A VLDM, VLDMDB or VPOP that fits and answers a next state leaves the registers outside its list and its base. -/
theorem vldm_next_sameRegs {f : Form} {s t : State} (hfit : Fits f) (h : vldm f.src f.operands s = .next t) :
    SameRegs f s t := by
  obtain hc | ⟨-, htr⟩ | ⟨hmany, -⟩ := vldm_next h
  · obtain ⟨-, rfl⟩ := eq_advanced_of_complete hc
    exact (SameRegs.refl f s).advanced f.src
  · obtain ⟨s', hl, hc⟩ := transfer_next htr
    obtain ⟨-, rfl⟩ := eq_advanced_of_complete hc
    exact (sameRegs_writeBack_of_loadList hl).advanced f.src
  · rw [(tooMany_eq_false_iff f).mpr hfit] at hmany
    cases hmany

theorem valueR_eq_baseOf (s : State) (n : Nat) : s.valueR n = baseOf s n := by
  unfold State.valueR baseOf State.isUnknownR
  cases s.unknownR[n]? <;> simp

theorem start_eq_startOf (f : Form) (s : State) : f.operands.start (s.valueR f.operands.n) = startOf f s := by
  rw [valueR_eq_baseOf]; rfl

/-- The words of a list: two for each D register. -/
def Form.words (f : Form) : Nat := if f.double then 2 * f.count else f.count

/-- Each form is a double or a single one; a well-formed double one has an even imm8. -/
theorem form_of_loadForm {i : Instr} {f : Form} (h : loadForm i = some f) :
    ∃ src add wback D Rn Vd imm8,
      (f = doubleForm src add wback D Rn Vd imm8 ∧ (i.wellFormed = true → imm8Even imm8 = true)) ∨
        f = singleForm src add wback D Rn Vd imm8 := by
  cases i with
  | vldmA1 | vldmdbA1 | vpopA1 | vldmT1 | vldmdbT1 | vpopT1 =>
    cases h
    exact ⟨_, _, _, _, _, _, _, .inl ⟨rfl, by simp +contextual [Instr.wellFormed]⟩⟩
  | vldmA2 | vldmdbA2 | vpopA2 | vldmT2 | vldmdbT2 | vpopT2 =>
    cases h
    exact ⟨_, _, _, _, _, _, _, .inr rfl⟩
  | undef001A1 | undef111A1 | undef001A2 | undef111A2 | undef001T1 | undef111T1 | undef001T2 | undef111T2 => cases h

/-- The offset covers the list's words, and is far from wrapping. -/
theorem bytes_of_loadForm {i : Instr} {f : Form} (h : loadForm i = some f) : 4 * f.words ≤ f.bytes ∧ f.bytes < 2 ^ 32 := by
  obtain ⟨src, add, wback, D, Rn, Vd, imm8, ⟨rfl, -⟩ | rfl⟩ := form_of_loadForm h
  · simp only [Form.words, doubleForm, if_true]; omega
  · simp only [Form.words, singleForm, Bool.false_eq_true, if_false]; omega

/-- The offset of a well-formed instruction is exactly its words. -/
theorem bytes_of_wellFormed {i : Instr} {f : Form} (h : loadForm i = some f) (hw : i.wellFormed = true) :
    f.bytes = 4 * f.words := by
  obtain ⟨src, add, wback, D, Rn, Vd, imm8, ⟨rfl, heven⟩ | rfl⟩ := form_of_loadForm h
  · have h2 : imm8.toNat % 2 = 0 := by
      simpa [imm8Even, BitVec.getLsbD, Nat.testBit_zero] using heven hw
    simp only [Form.words, doubleForm, if_true]; omega
  · simp only [Form.words, singleForm, Bool.false_eq_true, if_false]

section Transfer

variable {f : Form} {s : State} {a : Word}

/-- The read primitive on an aligned word that is mapped whole (R52, R53). -/
theorem memRead_of_mapped (ha : a.toNat % 4 = 0) (hm : ∀ k < 4, mappedAt s (a.toNat + k) = true) :
    s.memRead a = .ok (wordOf s a.toNat) := by
  have hal : wordAligned a = true := by simpa [wordAligned, ← BitVec.toNat_inj] using ha
  have hbyte : ∀ k < 4, Memory.read s.mem (a.toNat + k) = some (byteAt s (a.toNat + k)) := fun k hk => by
    obtain ⟨b, hb⟩ := Option.isSome_iff_exists.mp (hm k hk)
    rw [byteAt, hb]; rfl
  have h0 := hbyte 0 (by omega)
  simp only [Nat.add_zero] at h0
  simp [State.memRead, hal, State.wordAt, h0, hbyte 1, hbyte 2, hbyte 3, wordOfBytes, wordOf]

/-- The k-th word's address, where the transfer does not wrap. -/
theorem toNat_add_ofNat {k bytes : Nat} (hw : a.toNat + bytes ≤ 2 ^ 32) (hk : 4 * k < bytes) :
    (a + BitVec.ofNat 32 (4 * k)).toNat = a.toNat + 4 * k := by
  rw [BitVec.toNat_add, BitVec.toNat_ofNat]
  omega

/-- The loop of R132 aborts only at one of its words. -/
theorem loadList_abort {x : Word} {kind : AbortKind} (h : loadList f.operands a s = .abort kind x) :
    ∃ k < f.words, x = a + BitVec.ofNat 32 (4 * k) ∧ s.memRead x = .abort kind x := by
  cases hd : f.double with
  | false =>
    simp only [loadList, Form.operands, hd] at h
    simpa [Form.words, hd] using loadSingles_abort h
  | true =>
    simp only [loadList, Form.operands, hd] at h
    simpa [Form.words, hd] using loadDoubles_abort h

/-- The loop of R132 succeeds where every byte is mapped and the start is aligned. -/
theorem loadList_of_mapped {i : Instr} (hf : loadForm i = some f) (ha : (startOf f s).toNat % 4 = 0) (hw : NoWrap f s)
    (hm : AllMapped f s) : ∃ t, loadList f.operands (startOf f s) (s.afterReadR f.n) = .ok t := by
  cases hl : loadList f.operands (startOf f s) (s.afterReadR f.n) with
  | ok t => exact ⟨t, rfl⟩
  | abort kind x =>
    obtain ⟨k, hk, hx, habort⟩ := loadList_abort hl
    obtain ⟨hwords, -⟩ := bytes_of_loadForm hf
    have hx' : x.toNat = (startOf f s).toNat + 4 * k := by rw [hx, toNat_add_ofNat hw (by omega)]
    have hread := memRead_of_mapped (s := s) (a := x) (by omega) fun b hb => by
      rw [hx', Nat.add_assoc]; exact hm _ (by omega)
    rw [State.memRead_afterReadR, hread] at habort
    cases habort

theorem wrapsAround_eq_false {i : Instr} (hf : loadForm i = some f) (hw : NoWrap f s) :
    wrapsAround (startOf f s) f.operands.imm32 = false := by
  obtain ⟨-, hlt⟩ := bytes_of_loadForm hf
  have : f.operands.imm32.toNat = f.bytes := by simp only [Form.operands, BitVec.toNat_ofNat]; omega
  unfold NoWrap at hw
  rw [wrapsAround, this, decide_eq_false_iff_not]
  omega

/-- A transfer that does not wrap and whose loop succeeds comes to completion. -/
theorem transfer_completes {i : Instr} {t : State} (hf : loadForm i = some f) (hw : NoWrap f s)
    (hl : loadList f.operands (startOf f s) (s.afterReadR f.n) = .ok t) :
    ∃ s', SameControl s s' ∧ transfer f.src f.operands s = complete f.src s' := by
  refine ⟨_, sameControl_writeBack_of_loadList (base := s.valueR f.n) hl, ?_⟩
  unfold transfer
  rw [start_eq_startOf, wrapsAround_eq_false hf hw]
  exact (if_neg Bool.false_ne_true).trans (by rw [show f.operands.n = f.n from rfl, hl])

theorem not_pcAsBase (h : BaseOk f s) : ¬ (f.operands.n = 15 ∧ (f.operands.wback = true ∨ s.iset ≠ .a32)) := by
  rintro ⟨hn, hbad⟩
  obtain ⟨hwb, his⟩ := h hn
  exact hbad.elim (fun hw => Bool.false_ne_true (hwb.symm.trans hw)) (fun hne => hne his)

/-- Steps 2 and 3 of R130 by the length of the list (R137, R138), where the base is allowed. -/
theorem passedVldm_of_noRegisters (src : CondSource) (hb : BaseOk f s) (h0 : f.count = 0) :
    passedVldm src f.operands s = noRegisters src f.operands s := by
  rw [passedVldm, if_neg (not_pcAsBase hb)]
  exact if_pos h0

theorem passedVldm_of_not_fits (src : CondSource) (hb : BaseOk f s) (h0 : f.count ≠ 0) (hfit : ¬ Fits f) :
    passedVldm src f.operands s = tooManyRegisters src f.operands s := by
  rw [← tooMany_eq_false_iff, Bool.not_eq_false] at hfit
  rw [passedVldm, if_neg (not_pcAsBase hb), if_pos hfit]
  exact if_neg h0

theorem passedVldm_of_legal (src : CondSource) (hb : BaseOk f s) (hl : Legal f) :
    passedVldm src f.operands s = checkedTransfer src f.operands s := by
  obtain ⟨h1, hfit⟩ := hl
  have h0 : f.operands.regs ≠ 0 := Nat.ne_of_gt h1
  rw [passedVldm, if_neg (not_pcAsBase hb), if_neg h0, (tooMany_eq_false_iff f).mpr hfit]
  rfl

theorem checkedTransfer_of_enabled (src : CondSource) (o : Operands) (h : s.fpAccess = .enabled) :
    checkedTransfer src o s = transfer src o s := by
  rw [checkedTransfer, h]

/-- An instruction whose transfer is done comes to completion. -/
theorem vldm_completes_of_transfers {i : Instr} (hf : loadForm i = some f) (h : Transfers f s) :
    ∃ s', SameControl s s' ∧ vldm f.src f.operands s = complete f.src s' := by
  obtain ⟨hp, hb, hl, hacc, hal, hw, hm⟩ := h
  obtain ⟨t, ht⟩ := loadList_of_mapped hf hal hw hm
  rw [vldm, conditional_of_passes hp, passedVldm_of_legal _ hb hl, checkedTransfer_of_enabled _ _ hacc]
  exact transfer_completes hf hw ht

/-- A transfer of no registers moves no bytes, so it neither wraps nor aborts. -/
theorem transfer_completes_of_noRegisters {i : Instr} (hf : loadForm i = some f) (hwf : i.wellFormed = true)
    (h0 : f.count = 0) : ∃ s', SameControl s s' ∧ transfer f.src f.operands s = complete f.src s' := by
  have hwords : f.words = 0 := by simp [Form.words, h0]
  have hbytes : f.bytes = 0 := by rw [bytes_of_wellFormed hf hwf, hwords]
  have hnw : NoWrap f s := by
    have := (startOf f s).isLt
    rw [NoWrap, hbytes]; omega
  cases hl : loadList f.operands (startOf f s) (s.afterReadR f.n) with
  | ok t => exact transfer_completes hf hnw hl
  | abort kind x =>
    obtain ⟨k, hk, -⟩ := loadList_abort hl
    omega

/-- The constrained behaviours that advance pc come to completion (R137, R138). -/
theorem vldm_completes_of_constrainedAdvance {i : Instr} (hf : loadForm i = some f) (hwf : i.wellFormed = true)
    (h : ConstrainedAdvance f s) : ∃ s', SameControl s s' ∧ vldm f.src f.operands s = complete f.src s' := by
  obtain ⟨hp, hb, ⟨h0, hcu⟩ | ⟨h0, hfit, hcu⟩⟩ := h
  · rw [vldm, conditional_of_passes hp, passedVldm_of_noRegisters _ hb h0, noRegisters]
    obtain hnop | ⟨hnl, hacc⟩ := hcu
    · rw [hnop]; exact ⟨s, .refl s, rfl⟩
    · rw [hnl]
      simpa only [checkedTransfer_of_enabled _ _ hacc] using transfer_completes_of_noRegisters hf hwf h0
  · rw [vldm, conditional_of_passes hp, passedVldm_of_not_fits _ hb h0 hfit, tooManyRegisters]
    obtain hnop | hunk := hcu
    · rw [hnop]; exact ⟨s, .refl s, rfl⟩
    · rw [hunk]; exact ⟨_, sameControl_forgetUnder s _, rfl⟩

end Transfer

end Sys2Proof.Spec
end

section
/-! SUPPORT. The statements of 10_state.md, settled. -/

namespace Sys2Proof.Proofs

open Sys2Proof.Machine Sys2Proof.Spec

/-- Settles O42: the step's instruction leaves memory, instruction set and launch; pc moves on by 4 from a fetched word of the
text; and itstate stays under the refusing policy. -/
theorem stepKeepsTheInvariant : Obligations.StepKeepsTheInvariant := by
  rintro s t ⟨hmem, hal, -, hit⟩ hstep
  obtain ⟨w, i, hfetch, -, hexec⟩ := step_next hstep
  obtain ⟨⟨-, hiset, -, hm, -, hl⟩, hlt, hpc, -⟩ := exec_next_control hexec
  have hpcNat : t.pc.toNat = s.pc.toNat + 4 := by rw [hpc, BitVec.toNat_add]; simp; omega
  refine ⟨hm ▸ hmem, ?_, inText_of_fetches_pc_add_four hfetch hpcNat hl, fun hp => ?_⟩
  · rw [pcAligned_iff] at hal ⊢
    obtain ⟨h4, h2⟩ := hal
    rw [hiset, hpcNat]
    exact ⟨fun h => by have := h4 h; omega, fun h => by have := h2 h; omega⟩
  · rw [hl] at hp
    rw [exec_next_itstate_of_refuse hexec hp, hit hp]

/-- Settles O14, by the laws of `readS` and `readD` after a write. -/
theorem sRegistersAreHalvesOfD : Obligations.SRegistersAreHalvesOfD := by
  refine ⟨fun s k v hk hv => ?_, fun s i w hi => ⟨?_, ?_, ?_⟩, fun s i hi => by simp [State.readS, hi]⟩
  · exact ⟨readS_even_of_readD hk hv, readS_odd_of_readD hk hv⟩
  · exact State.readS_writeS_same s i w hi
  · exact fun j hj => State.readS_writeS_other s i j w hj.symm
  · exact fun k hk => State.readD_writeS_other s i k w hk.symm

/-- Settles O21: the condition is tested first, and a failed one only completes. -/
theorem failedConditionIsNopInT32 : Obligations.FailedConditionIsNopInT32 := by
  intro i s hi hfails hpc
  rw [exec_of_fails hfails, srcOf_of_t32 hi, complete_eq_advanced hpc]

/-- Settles O22: the condition is tested first, and under the refusing policy there is none. -/
theorem itBlockIsRefused : Obligations.ItBlockIsRefused :=
  fun _ _ hi h0 hp => exec_itBlock (srcOf_of_t32 hi) h0 hp

/-- Settles O31: each of these comes to completion with the pc it started with, and completion refuses. -/
theorem pcWrapIsRefused : Obligations.PcWrapIsRefused := by
  intro i s hpc
  refine ⟨fun hfails => by rw [exec_of_fails hfails, complete_eq_pcWrap hpc], fun f hwf hf hadv => ?_⟩
  obtain ⟨s', hsame, hexec⟩ : ∃ s', SameControl s s' ∧ vldm f.src f.operands s = complete f.src s' :=
    hadv.elim (vldm_completes_of_transfers hf) (vldm_completes_of_constrainedAdvance hf hwf)
  rw [exec_of_loadForm hf, hexec, complete_eq_pcWrap (by rwa [hsame.pc])]

/-- Settles O32, from the frame of the register file and of the control state. -/
theorem onlyListBaseAndPcChange : Obligations.OnlyListBaseAndPcChange := by
  intro i f s t hf hfit hexec
  have hsrc := srcOf_of_loadForm hf
  obtain ⟨hfixed, -, hpc, hit⟩ := exec_next_control hexec
  obtain ⟨hhalves, hregs⟩ := vldm_next_sameRegs hfit (exec_of_loadForm hf s ▸ hexec)
  refine ⟨hhalves, hregs, hpc, hfixed, hsrc ▸ hit, exec_next_itstate_of_refuse hexec, fun hfails => ?_⟩
  rw [← hsrc] at hfails ⊢
  rw [exec_of_fails hfails] at hexec
  exact (eq_advanced_of_complete hexec).2

/-- Settles O39: the fetch refuses, and the step with it. -/
theorem nothingRunsOutsideTheText : Obligations.NothingRunsOutsideTheText := by
  refine fun s => ⟨fun hmis => ?_, fun hal hend => ?_, fun hal hout => ?_⟩
  · have hal : pcAligned s.iset s.pc = false := by
      rw [← Bool.not_eq_true, pcAligned_iff]
      rintro ⟨h4, h2⟩
      exact hmis.elim (fun ⟨hi, hne⟩ => hne (h4 hi)) (fun ⟨hi, hne⟩ => hne (h2 hi))
    exact step_of_fetch_refused (fetch_misaligned hal)
  · exact step_of_fetch_refused (fetch_endOfText hal hend)
  · exact step_of_fetch_refused (fetch_outsideText hal hout)

/-- Settles O15: the condition source is read off, and each row of the table unfolds to its base test or the inverse of it. -/
theorem conditionTable : Obligations.ConditionTable := by
  refine ⟨fun c s => ⟨rfl, fun h => by simp [currentCond, h]⟩, fun f => ?_⟩
  simp [condHolds, condBase, and_comm, or_comm]

/-- Settles O41: an empty memory is canonical, and pc 0 is both the base and the end of the empty text. -/
theorem resetMeetsTheInvariant : Obligations.ResetMeetsTheInvariant :=
  ⟨⟨Memory.reset_wf, rfl, rfl, fun _ => rfl⟩, rfl⟩

end Sys2Proof.Proofs
end

section
/-! SUPPORT. The decoder on encoded words and on words as bytes (R57, R81 to R84, R91, R97). -/

namespace Sys2Proof

/-! ## Decoding an encoded word (R81 to R84, R91) -/

section Encoded

variable {iset : ISet} {single : Bool} {top : BitVec 4} {D W : BitVec 1} {Rn Vd : BitVec 4} {imm8 : BitVec 8}

/-- Steps 1 to 3 of R91 pass on a word of the page's layout, and bits 11:8 tell its form. -/
theorem decodeWord_encodeFields {P U : BitVec 1} (ha : iset = .a32 → condOk top = true)
    (ht : iset = .t32 → top = 0b1110#4) :
    decodeWord iset (encodeFields top P U D W Rn Vd 0b1011#4 imm8) =
        decodeForm iset false (encodeFields top P U D W Rn Vd 0b1011#4 imm8) ∧
      decodeWord iset (encodeFields top P U D W Rn Vd 0b1010#4 imm8) =
        decodeForm iset true (encodeFields top P U D W Rn Vd 0b1010#4 imm8) := by
  have ha' : ¬ (iset = .a32 ∧ top = 0b1111#4) := fun ⟨h, hc⟩ => by simpa [condOk, hc] using ha h
  have ht' : ¬ (iset = .t32 ∧ top ≠ 0b1110#4) := fun ⟨h, hc⟩ => hc (ht h)
  simp [decodeWord, fieldCond, fieldFormat, ha', ht']

variable {format : BitVec 4}

/-- Steps 5 to 9 of R91 read the page's layout field by field. -/
theorem decodeForm_encodeFields {P U : BitVec 1} (he : single = false → imm8Even imm8 = true) :
    decodeForm iset single (encodeFields top P U D W Rn Vd format imm8) =
      if P = 0#1 ∧ U = 0#1 ∧ W = 0#1 then .reject .relatedEncodings
      else if P = 1#1 ∧ W = 0#1 then .reject .vldr
      else if P = U ∧ W = 1#1 then
        if P = 0#1 then .ok (mkUndef001 iset single top D Rn Vd imm8) else .ok (mkUndef111 iset single top D Rn Vd imm8)
      else if P = 0#1 then .ok (mkIncrementAfter iset single top D W Rn Vd imm8)
      else .ok (mkDecrementBefore iset single top D Rn Vd imm8) := by
  have he' : ¬ (single = false ∧ imm8.getLsbD 0 = true) := fun ⟨h, hb⟩ => by
    have heven := he h
    rw [imm8Even, hb] at heven
    cases heven
  simp only [decodeForm, fieldP, fieldU, fieldD, fieldW, fieldRn, fieldVd, fieldImm8, fieldCond, encodeFields_P,
    encodeFields_U, encodeFields_D, encodeFields_W, encodeFields_Rn, encodeFields_Vd, encodeFields_imm8, encodeFields_top,
    if_neg he']

end Encoded

/-- The decoder takes an encoded well-formed instruction back (R91). -/
theorem decodeWord_encode {i : Instr} (hw : i.wellFormed = true) : decodeWord i.iset (encode i) = .ok i := by
  cases i with
  | vldmA1 | vldmA2 | vldmT1 | vldmT2 =>
    simp only [Instr.wellFormed, Bool.and_eq_true, Bool.not_eq_true'] at hw
    simp [encode, Instr.iset, decodeWord_encodeFields, decodeForm_encodeFields, mkIncrementAfter, hw]
  | vpopA1 | vpopA2 | vpopT1 | vpopT2 =>
    simp only [Instr.wellFormed, Bool.and_eq_true] at hw
    simp [encode, Instr.iset, decodeWord_encodeFields, decodeForm_encodeFields, hw]
    rfl
  | vldmdbA1 | vldmdbA2 | vldmdbT1 | vldmdbT2 =>
    simp only [Instr.wellFormed, Bool.and_eq_true] at hw
    simp [encode, Instr.iset, decodeWord_encodeFields, decodeForm_encodeFields, mkDecrementBefore, hw]
  | undef001A1 | undef001A2 | undef001T1 | undef001T2 =>
    simp only [Instr.wellFormed, Bool.and_eq_true] at hw
    simp [encode, Instr.iset, decodeWord_encodeFields, decodeForm_encodeFields, mkUndef001, hw]
  | undef111A1 | undef111A2 | undef111T1 | undef111T2 =>
    simp only [Instr.wellFormed, Bool.and_eq_true] at hw
    simp [encode, Instr.iset, decodeWord_encodeFields, decodeForm_encodeFields, mkUndef111, hw]

/-! ## Words as bytes (R57, R97) -/

/-- The bytes of R57 make up the word they were cut from. -/
theorem wordOfTextBytes_bytesOfWord (w : Word) :
    wordOfTextBytes .a32 (w.extractLsb' 0 8) (w.extractLsb' 8 8) (w.extractLsb' 16 8) (w.extractLsb' 24 8) = w ∧
    wordOfTextBytes .t32 (w.extractLsb' 16 8) (w.extractLsb' 24 8) (w.extractLsb' 0 8) (w.extractLsb' 8 8) = w := by
  have := w.isLt
  constructor <;> apply BitVec.eq_of_toNat_eq <;>
    simp only [wordOfTextBytes, toNat_append_add, BitVec.extractLsb'_toNat, Nat.shiftRight_eq_div_pow] <;> omega

theorem textOfBytes_bytesOfWord_append (iset : ISet) (w : Word) (rest : List Byte) :
    textOfBytes iset (bytesOfWord iset w ++ rest) = w :: textOfBytes iset rest := by
  obtain ⟨ha, ht⟩ := wordOfTextBytes_bytesOfWord w
  cases iset with
  | a32 => simp only [bytesOfWord, List.cons_append, List.nil_append, textOfBytes, ha]
  | t32 => simp only [bytesOfWord, List.cons_append, List.nil_append, textOfBytes, ht]

/-- A T32 word whose first halfword is not `1110110x` is rejected by that halfword alone (R91 steps 1 and 2, R97). -/
theorem decodeWord_t32_of_not_startsThisPage {b0 b1 : Byte} (h : startsThisPage (b1 ++ b0) = false) (b2 b3 : Byte) :
    decodeWord .t32 (wordOfTextBytes .t32 b0 b1 b2 b3) =
      .reject (if b1.extractLsb' 4 4 = 0b1110#4 then .otherInstruction else .not1110110x) := by
  have hhigh : ∀ lo len, (wordOfTextBytes .t32 b0 b1 b2 b3).extractLsb' (24 + lo) len = b1.extractLsb' lo len := by
    intro lo len
    rw [wordOfTextBytes]
    refine (BitVec.extractLsb'_append_eq_of_le (by omega)).trans ((BitVec.extractLsb'_append_eq_of_le (by omega)).trans ?_)
    congr 1
    omega
  have hstart : b1.extractLsb' 1 7 ≠ 0b1110110#7 := by
    have hb1 : (b1 ++ b0).extractLsb' 9 7 = b1.extractLsb' 1 7 := BitVec.extractLsb'_append_eq_of_le (by omega)
    rwa [startsThisPage, beq_eq_false_iff_ne, hb1] at h
  have hcond : fieldCond (wordOfTextBytes .t32 b0 b1 b2 b3) = b1.extractLsb' 4 4 := hhigh 4 4
  by_cases hc : b1.extractLsb' 4 4 = 0b1110#4
  · have h3 : b1.extractLsb' 1 3 ≠ 0b110#3 := fun h3 => hstart (by
      rw [← BitVec.extractLsb'_append_extractLsb'_eq_extractLsb' (show 4 = 1 + 3 from rfl), hc, h3]; rfl)
    simp [decodeWord, hcond, hc, hhigh 1 3, h3]
  · simp [decodeWord, hcond, hc]

/-- The byte decoder reads the first word and nothing after it; where R97 has it stop at the first halfword of a T32 word, the
second one would not have changed the answer. -/
theorem decode_bytesOfWord_append (iset : ISet) (w : Word) (rest : List Byte) :
    decode iset (bytesOfWord iset w ++ rest) = decodeWord iset w := by
  obtain ⟨ha, ht⟩ := wordOfTextBytes_bytesOfWord w
  cases iset with
  | a32 => simp only [bytesOfWord, List.cons_append, List.nil_append, decode, ha]
  | t32 =>
    simp only [bytesOfWord, List.cons_append, List.nil_append, decode, ht]
    split
    · rfl
    · next hp =>
      have hpage := Bool.not_eq_true _ ▸ hp
      rw [decodeWord_t32_of_not_startsThisPage hpage, ← decodeWord_t32_of_not_startsThisPage hpage, ht]

end Sys2Proof
end

section
/-! SUPPORT. The read primitive's aborts (R52), what a transfer that is done leaves in the listed registers (R132), the refusal of
a wrap (R133), and what a run keeps (R63). -/

namespace Sys2Proof.Spec

open Sys2Proof.Machine

variable {i : Instr} {f : Form} {s t : State} {a : Word}

/-! ## The read primitive (R52) -/

theorem wordAligned_iff (a : Word) : wordAligned a = true ↔ a.toNat % 4 = 0 := by
  simp [wordAligned, ← BitVec.toNat_inj]

theorem memRead_of_misaligned (ha : a.toNat % 4 ≠ 0) : s.memRead a = .abort .alignment a :=
  if_neg (mt (wordAligned_iff a).mp ha)

/-- A word that is read is mapped whole. -/
theorem mappedAt_of_wordAt {w : Word} {k : Nat} (h : s.wordAt a = some w) (hk : k < 4) :
    mappedAt s (a.toNat + k) = true := by
  unfold State.wordAt at h
  split at h
  · next h0 h1 h2 h3 =>
    obtain rfl | rfl | rfl | rfl : k = 0 ∨ k = 1 ∨ k = 2 ∨ k = 3 := by omega
    · simp [mappedAt, h0]
    · simp [mappedAt, h1]
    · simp [mappedAt, h2]
    · simp [mappedAt, h3]
  · cases h

theorem memRead_of_unmapped {k : Nat} (ha : a.toNat % 4 = 0) (hk : k < 4) (hm : mappedAt s (a.toNat + k) = false) :
    s.memRead a = .abort .access a := by
  have hw : s.wordAt a = none := by
    rw [Option.eq_none_iff_forall_ne_some]
    exact fun w h => Bool.false_ne_true (hm.symm.trans (mappedAt_of_wordAt h hk))
  simp only [State.memRead, (wordAligned_iff a).mpr ha, if_true, hw]

/-! ## The transfer of a legal list (R130 to R133) -/

/-- Past the tests of R130 an instruction is its transfer. -/
theorem exec_eq_transfer (hf : loadForm i = some f) (hp : Passes f.src s) (hb : BaseOk f s) (hl : Legal f)
    (hacc : s.fpAccess = .enabled) : exec i s = transfer f.src f.operands s := by
  rw [exec_of_loadForm hf, vldm, conditional_of_passes hp, passedVldm_of_legal _ hb hl, checkedTransfer_of_enabled _ _ hacc]

theorem wrapsAround_iff (hf : loadForm i = some f) :
    wrapsAround (startOf f s) f.operands.imm32 = true ↔ ¬ NoWrap f s := by
  obtain ⟨-, hlt⟩ := bytes_of_loadForm hf
  have hbytes : f.operands.imm32.toNat = f.bytes := by simp only [Form.operands, BitVec.toNat_ofNat]; omega
  rw [wrapsAround, decide_eq_true_iff, hbytes, NoWrap, Nat.not_le]

/-- Each word of a transfer that is done reads, after the base has been read (R52, R132). -/
theorem memRead_word (hf : loadForm i = some f) (h : Transfers f s) {k : Nat} (hk : k < f.words) :
    (s.afterReadR f.n).memRead (startOf f s + BitVec.ofNat 32 (4 * k)) =
      .ok (wordOf s ((startOf f s).toNat + 4 * k)) := by
  obtain ⟨-, -, -, -, ha, hw, hm⟩ := h
  obtain ⟨hwords, -⟩ := bytes_of_loadForm hf
  have hx := toNat_add_ofNat hw (k := k) (by omega)
  rw [State.memRead_afterReadR, memRead_of_mapped (by omega), hx]
  intro b hb
  rw [hx, Nat.add_assoc]
  exact hm _ (by omega)

/-- A transfer whose loop succeeds is followed by the writeback and the advance. -/
theorem exec_of_loadList (hf : loadForm i = some f) (h : RunsNormally f s)
    (hl : loadList f.operands (startOf f s) (s.afterReadR f.n) = .ok t) :
    exec i s = .next (advanced f.src (writeBack f.operands (s.valueR f.n) t)) := by
  obtain ⟨⟨hp, hb, hleg, hacc, -, hw, -⟩, hpc⟩ := h
  have hsame := sameControl_writeBack_of_loadList (base := s.valueR f.n) hl
  rw [exec_eq_transfer hf hp hb hleg hacc, transfer, start_eq_startOf, wrapsAround_eq_false hf hw]
  rw [if_neg Bool.false_ne_true, show f.operands.n = f.n from rfl, hl]
  exact complete_eq_advanced (hsame.pc ▸ hpc)

theorem readD_congr {j : Nat} (hd : t.d[j]? = s.d[j]?) (h0 : t.isUnknownHalf (2 * j) = s.isUnknownHalf (2 * j))
    (h1 : t.isUnknownHalf (2 * j + 1) = s.isUnknownHalf (2 * j + 1)) : t.readD j = s.readD j := by
  rw [State.readD, State.readD, hd, h0, h1]

@[simp] theorem writeBack_d (o : Operands) (base : Word) (s : State) : (writeBack o base s).d = s.d := by
  unfold writeBack; split <;> rfl

@[simp] theorem writeBack_unknownS (o : Operands) (base : Word) (s : State) :
    (writeBack o base s).unknownS = s.unknownS := by
  unfold writeBack; split <;> rfl

theorem readD_advanced_writeBack (src : CondSource) (o : Operands) (base : Word) (s : State) (j : Nat) :
    (advanced src (writeBack o base s)).readD j = s.readD j := by
  simp [State.readD, State.isUnknownHalf, advanced]

theorem readS_advanced_writeBack (src : CondSource) (o : Operands) (base : Word) (s : State) (j : Nat) :
    (advanced src (writeBack o base s)).readS j = s.readS j := by
  simp [State.readS, State.isUnknownHalf, advanced]

/-- A list of D registers that runs normally: each holds its two words, and the others are left. -/
theorem exec_double_loads (hf : loadForm i = some f) (hd : f.double = true) (h : RunsNormally f s) :
    ∃ t, exec i s = .next t ∧
      (∀ r < f.count, t.readD (f.first + r) =
        some (combineWords s.e (wordOf s ((startOf f s).toNat + 8 * r)) (wordOf s ((startOf f s).toNat + 8 * r + 4)))) ∧
      ∀ j, j < f.first ∨ f.first + f.count ≤ j → t.readD j = s.readD j := by
  have hwords : f.words = 2 * f.count := by simp [Form.words, hd]
  obtain ⟨-, -, hfit⟩ := h.legal
  obtain ⟨t, hl, -, hin, hout, -, -⟩ :=
    loadDoubles_ok hfit fun k hk => memRead_word hf h.toTransfers (hwords ▸ hk)
  have hlist : loadList f.operands (startOf f s) (s.afterReadR f.n) = .ok t := by
    simpa [loadList, Form.operands, hd] using hl
  refine ⟨_, exec_of_loadList hf h hlist, fun r hr => ?_, fun j hj => ?_⟩
  · rw [readD_advanced_writeBack, hin r hr, State.afterReadR_e]
    congr 3 <;> omega
  · rw [readD_advanced_writeBack, hout j hj]
    exact readD_congr (by simp) (by simp [State.isUnknownHalf]) (by simp [State.isUnknownHalf])

/-- A list of S registers that runs normally: each holds its word, and the D registers with no part in it are left. -/
theorem exec_single_loads (hf : loadForm i = some f) (hd : f.double = false) (h : RunsNormally f s) :
    ∃ t, exec i s = .next t ∧
      (∀ r < f.count, t.readS (f.first + r) = some (wordOf s ((startOf f s).toNat + 4 * r))) ∧
      ∀ j, j < f.first / 2 ∨ (f.first + f.count + 1) / 2 ≤ j → t.readD j = s.readD j := by
  have hwords : f.words = f.count := by simp [Form.words, hd]
  obtain ⟨-, -, hfit⟩ := h.legal
  obtain ⟨t, hl, -, hin, -, hout, hmark⟩ :=
    loadSingles_ok hfit fun k hk => memRead_word hf h.toTransfers (hwords ▸ hk)
  have hlist : loadList f.operands (startOf f s) (s.afterReadR f.n) = .ok t := by
    simpa [loadList, Form.operands, hd] using hl
  refine ⟨_, exec_of_loadList hf h hlist, fun r hr => ?_, fun j hj => ?_⟩
  · rw [readS_advanced_writeBack, hin r hr]
  · rw [readD_advanced_writeBack]
    refine readD_congr ?_ ?_ ?_
    · rw [hout j hj, State.afterReadR_d]
    · rw [hmark _ (by omega)]; simp [State.isUnknownHalf]
    · rw [hmark _ (by omega)]; simp [State.isUnknownHalf]

/-- A D register is its two S views, the odd one high (R26). -/
theorem readD_of_readS {k : Nat} {lo hi : Word} (hlo : s.readS (2 * k) = some lo) (hhi : s.readS (2 * k + 1) = some hi) :
    s.readD k = some (hi ++ lo) := by
  have hdiv : (2 * k + 1) / 2 = k := by omega
  obtain ⟨⟨hulo, -⟩, v, hv, rfl⟩ : (s.isUnknownHalf (2 * k) = false ∧ 2 * k < 32) ∧
      ∃ v, s.d[k]? = some v ∧ v.extractLsb' 0 32 = lo := by simpa [State.readS] using hlo
  obtain ⟨⟨huhi, -⟩, v', hv', rfl⟩ : (s.isUnknownHalf (2 * k + 1) = false ∧ 2 * k < 31) ∧
      ∃ v, s.d[k]? = some v ∧ v.extractLsb' 32 32 = hi := by simpa [State.readS, hdiv] using hhi
  obtain rfl : v = v' := by simpa [hv] using hv'
  have hjoin : (v.extractLsb' 32 32 ++ v.extractLsb' 0 32 : DWord) = v :=
    (BitVec.extractLsb'_append_extractLsb'_eq_extractLsb' (show 32 = 0 + 32 from rfl)).trans BitVec.extractLsb'_eq_self
  rw [hjoin]
  exact readD_eq_some_iff.mpr ⟨hulo, huhi, hv⟩

/-- Two S registers take the bytes of one D register, under the same conditions. -/
theorem runsNormally_singleForm {src : CondSource} {wback : Bool} {Rn k : BitVec 4}
    (h : RunsNormally (doubleForm src true wback 0 Rn k 2) s) : RunsNormally (singleForm src true wback 0 Rn k 2) s := by
  obtain ⟨⟨hp, hb, -, hacc, hal, hw, hm⟩, hpc⟩ := h
  have hlegal : Legal (singleForm src true wback 0 Rn k 2) := by
    have := k.isLt
    refine ⟨Nat.le_of_lt Nat.one_lt_two, fun hd => absurd hd Bool.false_ne_true, ?_⟩
    show 2 * k.toNat + 0 + 2 ≤ 32
    omega
  exact ⟨⟨hp, hb, hlegal, hacc, hal, hw, hm⟩, hpc⟩

/-! ## Runs (R63) -/

theorem sameFixed_refl (s : State) : s.SameFixed s := ⟨rfl, rfl, rfl, rfl, rfl, rfl⟩

theorem sameFixed_trans {u : State} (h₁ : s.SameFixed t) (h₂ : t.SameFixed u) : s.SameFixed u :=
  ⟨h₂.flags.trans h₁.flags, h₂.iset.trans h₁.iset, h₂.e.trans h₁.e, h₂.mem.trans h₁.mem, h₂.sys.trans h₁.sys,
    h₂.launch.trans h₁.launch⟩

theorem sameFixed_of_step (h : step s = .next t) : s.SameFixed t := by
  obtain ⟨w, i, -, -, hexec⟩ := step_next h
  exact (exec_next_control hexec).1

/-- A run of one step more begins with a step. -/
theorem run_succ_next {M : Host.Core} {k : Nat} {s t : M.State} (h : M.run (k + 1) s = .next t) :
    ∃ u, M.step s = .next u ∧ M.run k u = .next t := by
  rw [Host.Core.run] at h
  split at h
  · next u hu => exact ⟨u, hu, h⟩
  · cases h
  · cases h

theorem sameFixed_of_run {k : Nat} (h : Host.Core.run Sys2Proof.core k s = .next t) : s.SameFixed t := by
  induction k generalizing s with
  | zero => cases h; exact sameFixed_refl _
  | succ k ih =>
    obtain ⟨u, hstep, hrest⟩ := run_succ_next h
    exact sameFixed_trans (sameFixed_of_step hstep) (ih hrest)

end Sys2Proof.Spec
end

section
/-! SUPPORT. The statements of 20_memory.md, settled. -/

namespace Sys2Proof.Proofs

open Sys2Proof.Machine Sys2Proof.Spec

/-- Settles O17: the D load joins the two words that the S loads read, the second one high for E = 0 and low for E = 1, and
neither touches another D register. -/
theorem dRegisterAgainstSPair : Obligations.DRegisterAgainstSPair := by
  intro c W Rn k s i j hij hrun
  obtain ⟨hi, hj⟩ : loadForm i = some (doubleForm (srcOf i) true (W == 1#1) 0 Rn k 2) ∧
      loadForm j = some (singleForm (srcOf i) true (W == 1#1) 0 Rn k 2) := by
    obtain ⟨rfl, rfl⟩ | ⟨rfl, rfl⟩ := hij <;> exact ⟨rfl, rfl⟩
  obtain ⟨t, ht, hdouble, hframeD⟩ := exec_double_loads hi rfl hrun
  obtain ⟨u, hu, hsingle, hframeS⟩ := exec_single_loads hj rfl (runsNormally_singleForm hrun)
  have hfD : (doubleForm (srcOf i) true (W == 1#1) 0 Rn k 2).first = k.toNat := by simp [doubleForm]
  have hcD : (doubleForm (srcOf i) true (W == 1#1) 0 Rn k 2).count = 1 := rfl
  have hfS : (singleForm (srcOf i) true (W == 1#1) 0 Rn k 2).first = 2 * k.toNat := rfl
  have hcS : (singleForm (srcOf i) true (W == 1#1) 0 Rn k 2).count = 2 := rfl
  rw [hfD, hcD] at hdouble hframeD
  rw [hfS, hcS] at hsingle hframeS
  obtain ⟨w1, w2, hD, hS1, hS2⟩ : ∃ w1 w2, t.readD k.toNat = some (combineWords s.e w1 w2) ∧
      u.readS (2 * k.toNat) = some w1 ∧ u.readS (2 * k.toNat + 1) = some w2 :=
    ⟨_, _, hdouble 0 Nat.one_pos, hsingle 0 Nat.two_pos, hsingle 1 Nat.one_lt_two⟩
  refine ⟨t, u, ht, hu, fun he m => ?_, fun he => ?_⟩
  · by_cases hm : m = k.toNat
    · rw [hm, hD, readD_of_readS hS1 hS2, he]; rfl
    · rw [hframeD m (by omega), hframeS m (by omega)]
  · rw [he] at hD
    rw [readS_even_of_readD k.isLt hD, readS_odd_of_readD k.isLt hD, hS1, hS2]
    exact ⟨congrArg some (State.extractLow_join _ _), congrArg some (State.extractHigh_join _ _)⟩

/-- Settles O3: the bytes give the encoded word back, and the decoder takes that back to the instruction. -/
theorem decodeOfEncodedBytes : Obligations.DecodeOfEncodedBytes := by
  intro i rest hw
  rw [encodeBytes, decode_bytesOfWord_append, decodeWord_encode hw]

/-- Settles O4, word by word. -/
theorem textOfBytesReadsWords : Obligations.TextOfBytesReadsWords := by
  intro iset ws
  induction ws with
  | nil => rfl
  | cons w ws ih => rw [List.flatMap_cons, textOfBytes_bytesOfWord_append, ih]

/-- Settles O16: one law of the read primitive for each case. -/
theorem memReadCases : Obligations.MemReadCases :=
  fun _ _ => ⟨memRead_of_misaligned, fun ha => ⟨fun ⟨_, hk, hm⟩ => memRead_of_unmapped ha hk hm, memRead_of_mapped ha⟩⟩

/-- Settles O30: past the tests of R130 the transfer looks for the wrap before it reads a word. -/
theorem addressWrapIsRefused : Obligations.AddressWrapIsRefused := by
  intro i f s hf hp hb hl hacc hwrap
  rw [exec_eq_transfer hf hp hb hl hacc, transfer, start_eq_startOf, if_pos ((wrapsAround_iff hf).mpr hwrap)]

/-- Settles O44: every step keeps the fixed parts, and a read looks at no more than memory and endianness. -/
theorem memoryIsConstantInARun : Obligations.MemoryIsConstantInARun := by
  intro s t k hrun
  have hfixed := sameFixed_of_run hrun
  exact ⟨hfixed, State.memRead_congr hfixed.mem hfixed.e⟩

end Sys2Proof.Proofs
end

section
/-! SUPPORT. What the decoder of R91 answers on every word: the refusals of its steps 1 to 3 and 5, and, on the words of R92, the
choice that P U W make; the rows' masks field by field. -/

namespace Sys2Proof.Spec

open Sys2Proof.Machine

variable {iset : ISet} {w : Word} {i : Instr}

/-! ## Steps 1 to 3 of R91: the words that are not on the page -/

theorem decodeWord_of_cond1111 (h : w.extractLsb' 28 4 = 0b1111#4) : decodeWord .a32 w = .reject .cond1111 :=
  if_pos ⟨rfl, h⟩

theorem decodeWord_of_not1110 (h : w.extractLsb' 28 4 ≠ 0b1110#4) : decodeWord .t32 w = .reject .not1110110x := by
  simp [decodeWord, fieldCond, h]

theorem decodeWord_of_not_onPage (ha : iset = .a32 → w.extractLsb' 28 4 ≠ 0b1111#4)
    (ht : iset = .t32 → w.extractLsb' 28 4 = 0b1110#4) (hp : ¬ OnPage iset w) :
    decodeWord iset w = .reject .otherInstruction := by
  have ha' : ¬ (iset = .a32 ∧ fieldCond w = 0b1111#4) := fun ⟨hi, hc⟩ => ha hi hc
  have ht' : ¬ (iset = .t32 ∧ fieldCond w ≠ 0b1110#4) := fun ⟨hi, hc⟩ => hc (ht hi)
  rw [decodeWord, if_neg ha', if_neg ht']
  split
  · rfl
  · next hfixed =>
    obtain ⟨h3, h1⟩ : w.extractLsb' 25 3 = 0b110#3 ∧ w.extractLsb' 20 1 = 1#1 := by simpa using hfixed
    have hf : fieldFormat w ≠ 0b1011#4 ∧ fieldFormat w ≠ 0b1010#4 :=
      ⟨fun hf => hp ⟨ha, ht, h3, h1, .inl hf⟩, fun hf => hp ⟨ha, ht, h3, h1, .inr hf⟩⟩
    rw [if_neg hf.1, if_neg hf.2]

/-- Only a word of the page is given to the steps after the third. -/
theorem onPage_of_decodeWord_ok (h : decodeWord iset w = .ok i) : OnPage iset w := by
  by_contra hp
  by_cases ha : iset = .a32 ∧ w.extractLsb' 28 4 = 0b1111#4
  · obtain ⟨rfl, hc⟩ := ha
    cases (decodeWord_of_cond1111 hc).symm.trans h
  by_cases ht : iset = .t32 ∧ w.extractLsb' 28 4 ≠ 0b1110#4
  · obtain ⟨rfl, hc⟩ := ht
    cases (decodeWord_of_not1110 hc).symm.trans h
  cases (decodeWord_of_not_onPage (fun hi hc => ha ⟨hi, hc⟩) (fun hi => by_contra fun hc => ht ⟨hi, hc⟩) hp).symm.trans h

/-! ## Steps 4 to 9 of R91: P U W on the words of the page -/

/-- A word of the page goes to the steps of its form. -/
theorem decodeWord_of_onPage (hp : OnPage iset w) : decodeWord iset w = decodeForm iset (!isDouble w) w := by
  obtain ⟨ha, ht, h3, h1, hf⟩ := hp
  have ha' : ¬ (iset = .a32 ∧ fieldCond w = 0b1111#4) := fun ⟨hi, hc⟩ => ha hi hc
  have ht' : ¬ (iset = .t32 ∧ fieldCond w ≠ 0b1110#4) := fun ⟨hi, hc⟩ => hc (ht hi)
  rw [decodeWord, if_neg ha', if_neg ht', if_neg (by simp [h3, h1])]
  obtain hf | hf := hf <;> simp [fieldFormat, isDouble, hf]

theorem imm8_bit0_eq_true_iff (w : Word) : (fieldImm8 w).getLsbD 0 = true ↔ w.extractLsb' 0 1 = 1#1 := by
  simp only [fieldImm8, BitVec.getLsbD, Nat.testBit_zero, ← BitVec.toNat_inj, BitVec.extractLsb'_toNat]
  simp

theorem imm8Even_iff (w : Word) : imm8Even (fieldImm8 w) = true ↔ w.extractLsb' 0 1 = 0#1 := by
  rw [imm8Even, Bool.not_eq_true', ← Bool.not_eq_true, imm8_bit0_eq_true_iff]
  obtain h | h := BitVec.eq_zero_or_eq_one (w.extractLsb' 0 1) <;> simp [h]

theorem decodeWord_of_fldmx (hp : OnPage iset w) (hd : isDouble w = true) (hodd : w.extractLsb' 0 1 = 1#1) :
    decodeWord iset w = .reject .fldmx := by
  rw [decodeWord_of_onPage hp, decodeForm, hd]
  exact if_pos ⟨rfl, (imm8_bit0_eq_true_iff w).mpr hodd⟩

/-- The words of R92: on the page, and not FLDM*X. -/
def InSpace (iset : ISet) (w : Word) : Prop := OnPage iset w ∧ (isDouble w = true → w.extractLsb' 0 1 = 0#1)

theorem inSpace_of_decodeWord_ok (h : decodeWord iset w = .ok i) : InSpace iset w := by
  have hp := onPage_of_decodeWord_ok h
  refine ⟨hp, fun hd => ?_⟩
  obtain h0 | h1 := BitVec.eq_zero_or_eq_one (w.extractLsb' 0 1)
  · exact h0
  · cases (decodeWord_of_fldmx hp hd h1).symm.trans h

/-- On the words of R92 the decoder tests P U W alone. -/
theorem decodeWord_of_inSpace (hs : InSpace iset w) :
    decodeWord iset w =
      if fieldP w = 0#1 ∧ fieldU w = 0#1 ∧ fieldW w = 0#1 then .reject .relatedEncodings
      else if fieldP w = 1#1 ∧ fieldW w = 0#1 then .reject .vldr
      else if fieldP w = fieldU w ∧ fieldW w = 1#1 then
        if fieldP w = 0#1 then
          .ok (mkUndef001 iset (!isDouble w) (fieldCond w) (fieldD w) (fieldRn w) (fieldVd w) (fieldImm8 w))
        else .ok (mkUndef111 iset (!isDouble w) (fieldCond w) (fieldD w) (fieldRn w) (fieldVd w) (fieldImm8 w))
      else if fieldP w = 0#1 then
        .ok (mkIncrementAfter iset (!isDouble w) (fieldCond w) (fieldD w) (fieldW w) (fieldRn w) (fieldVd w) (fieldImm8 w))
      else .ok (mkDecrementBefore iset (!isDouble w) (fieldCond w) (fieldD w) (fieldRn w) (fieldVd w) (fieldImm8 w)) := by
  obtain ⟨hp, heven⟩ := hs
  rw [decodeWord_of_onPage hp]
  refine if_neg fun ⟨hd, hodd⟩ => ?_
  rw [imm8_bit0_eq_true_iff, heven (by simpa using hd)] at hodd
  cases hodd

theorem append_bits_eq_iff :
    ∀ (P U W : BitVec 1) (x : BitVec 3),
      P ++ U ++ W = x ↔ P = x.extractLsb' 2 1 ∧ U = x.extractLsb' 1 1 ∧ W = x.extractLsb' 0 1 := by
  decide

theorem puw_eq_iff (w : Word) (x : BitVec 3) :
    puw w = x ↔ fieldP w = x.extractLsb' 2 1 ∧ fieldU w = x.extractLsb' 1 1 ∧ fieldW w = x.extractLsb' 0 1 :=
  append_bits_eq_iff _ _ _ x

/-! ## What the decoder builds -/

/-- Where the condition of an instruction of a set comes from, its cond field being `cond` in A32. -/
def condSource (iset : ISet) (cond : BitVec 4) : CondSource :=
  match iset with
  | .a32 => .field cond
  | .t32 => .it

/-- The form that an encoding of R81 to R84, picked by the set and by `single`, gives its fields. -/
def encodingForm (iset : ISet) (single : Bool) (cond : BitVec 4) (add wback : Bool) (D : BitVec 1) (Rn Vd : BitVec 4)
    (imm8 : BitVec 8) : Form :=
  if single then singleForm (condSource iset cond) add wback D Rn Vd imm8
  else doubleForm (condSource iset cond) add wback D Rn Vd imm8

theorem formOfBits_eq_encodingForm (iset : ISet) (add wback : Bool) (w : Word) :
    formOfBits iset add wback w =
      encodingForm iset (!isDouble w) (fieldCond w) add wback (fieldD w) (fieldRn w) (fieldVd w) (fieldImm8 w) := by
  cases iset <;> cases hd : isDouble w <;> simp only [formOfBits, encodingForm, hd] <;> rfl

section Built

variable (iset : ISet) (single : Bool) (cond : BitVec 4) (D W : BitVec 1) (Rn Vd : BitVec 4) (imm8 : BitVec 8)

theorem loadForm_mkIncrementAfter :
    loadForm (mkIncrementAfter iset single cond D W Rn Vd imm8) =
      some (encodingForm iset single cond true (W == 1#1) D Rn Vd imm8) := by
  unfold mkIncrementAfter
  cases hv : isVpop W Rn with
  | false => cases iset <;> cases single <;> rfl
  | true =>
    obtain ⟨rfl, rfl⟩ : W = 1#1 ∧ Rn = 0b1101#4 := by simpa [isVpop] using hv
    cases iset <;> cases single <;> rfl

theorem loadForm_mkDecrementBefore :
    loadForm (mkDecrementBefore iset single cond D Rn Vd imm8) =
      some (encodingForm iset single cond false true D Rn Vd imm8) := by
  cases iset <;> cases single <;> rfl

theorem isVpopRow_mkIncrementAfter : isVpopRow (mkIncrementAfter iset single cond D W Rn Vd imm8) = isVpop W Rn := by
  unfold mkIncrementAfter
  cases isVpop W Rn <;> cases iset <;> cases single <;> rfl

theorem isUndefinedRow_mkUndef001 : isUndefinedRow (mkUndef001 iset single cond D Rn Vd imm8) = true := by
  cases iset <;> cases single <;> rfl

theorem isUndefinedRow_mkUndef111 : isUndefinedRow (mkUndef111 iset single cond D Rn Vd imm8) = true := by
  cases iset <;> cases single <;> rfl

/-- An UNDEFINED 001 instruction: its set, its word, and when it is well-formed. -/
theorem mkUndef001_spec :
    (mkUndef001 iset single cond D Rn Vd imm8).iset = iset ∧
    encode (mkUndef001 iset single cond D Rn Vd imm8) =
      encodeFields (if iset = .a32 then cond else 0b1110#4) 0 0 D 1 Rn Vd (if single then 0b1010#4 else 0b1011#4) imm8 ∧
    (mkUndef001 iset single cond D Rn Vd imm8).wellFormed =
      ((decide (iset = .t32) || condOk cond) && (single || imm8Even imm8)) := by
  cases iset <;> cases single <;> simp [mkUndef001, Instr.iset, encode, Instr.wellFormed]

/-- An UNDEFINED 111 instruction: its set, its word, and when it is well-formed. -/
theorem mkUndef111_spec :
    (mkUndef111 iset single cond D Rn Vd imm8).iset = iset ∧
    encode (mkUndef111 iset single cond D Rn Vd imm8) =
      encodeFields (if iset = .a32 then cond else 0b1110#4) 1 1 D 1 Rn Vd (if single then 0b1010#4 else 0b1011#4) imm8 ∧
    (mkUndef111 iset single cond D Rn Vd imm8).wellFormed =
      ((decide (iset = .t32) || condOk cond) && (single || imm8Even imm8)) := by
  cases iset <;> cases single <;> simp [mkUndef111, Instr.iset, encode, Instr.wellFormed]

end Built

section Answers

variable (hs : InSpace iset w)
include hs

theorem decodeWord_relatedEncodings (hP : fieldP w = 0#1) (hU : fieldU w = 0#1) (hW : fieldW w = 0#1) :
    decodeWord iset w = .reject .relatedEncodings := by
  rw [decodeWord_of_inSpace hs, hP, hU, hW]; rfl

theorem decodeWord_vldr (hP : fieldP w = 1#1) (hW : fieldW w = 0#1) : decodeWord iset w = .reject .vldr := by
  rw [decodeWord_of_inSpace hs, if_neg fun h => by simp [hP] at h, if_pos ⟨hP, hW⟩]

theorem decodeWord_incrementAfter (hP : fieldP w = 0#1) (hU : fieldU w = 1#1) :
    decodeWord iset w = .ok (mkIncrementAfter iset (!isDouble w) (fieldCond w) (fieldD w) (fieldW w) (fieldRn w) (fieldVd w)
      (fieldImm8 w)) := by
  rw [decodeWord_of_inSpace hs, hP, hU]; simp

theorem decodesTo_incrementAfter (hP : fieldP w = 0#1) (hU : fieldU w = 1#1) :
    DecodesTo iset w (formOfBits iset true (fieldW w == 1#1) w) :=
  ⟨_, decodeWord_incrementAfter hs hP hU, by rw [loadForm_mkIncrementAfter, formOfBits_eq_encodingForm]⟩

theorem decodesTo_decrementBefore (hP : fieldP w = 1#1) (hU : fieldU w = 0#1) (hW : fieldW w = 1#1) :
    DecodesTo iset w (formOfBits iset false true w) :=
  ⟨_, by rw [decodeWord_of_inSpace hs, hP, hU, hW]; rfl, by rw [loadForm_mkDecrementBefore, formOfBits_eq_encodingForm]⟩

theorem decodesUndefined_of_inSpace (hPU : fieldP w = fieldU w) (hW : fieldW w = 1#1) : DecodesUndefined iset w := by
  have hd := decodeWord_of_inSpace hs
  rw [← hPU, hW] at hd
  obtain hP | hP := BitVec.eq_zero_or_eq_one (fieldP w)
  · exact ⟨_, by rw [hd, hP]; rfl, isUndefinedRow_mkUndef001 ..⟩
  · exact ⟨_, by rw [hd, hP]; rfl, isUndefinedRow_mkUndef111 ..⟩

end Answers

/-- Each answer of the decoder with the P U W that give it. -/
theorem decodeWord_ok_cases (h : decodeWord iset w = .ok i) :
    (fieldP w = 0#1 ∧ fieldU w = 0#1 ∧ fieldW w = 1#1 ∧
      i = mkUndef001 iset (!isDouble w) (fieldCond w) (fieldD w) (fieldRn w) (fieldVd w) (fieldImm8 w)) ∨
    (fieldP w = 1#1 ∧ fieldU w = 1#1 ∧ fieldW w = 1#1 ∧
      i = mkUndef111 iset (!isDouble w) (fieldCond w) (fieldD w) (fieldRn w) (fieldVd w) (fieldImm8 w)) ∨
    (fieldP w = 0#1 ∧ fieldU w = 1#1 ∧
      i = mkIncrementAfter iset (!isDouble w) (fieldCond w) (fieldD w) (fieldW w) (fieldRn w) (fieldVd w) (fieldImm8 w)) ∨
    (fieldP w = 1#1 ∧ fieldU w = 0#1 ∧ fieldW w = 1#1 ∧
      i = mkDecrementBefore iset (!isDouble w) (fieldCond w) (fieldD w) (fieldRn w) (fieldVd w) (fieldImm8 w)) := by
  rw [decodeWord_of_inSpace (inSpace_of_decodeWord_ok h)] at h
  obtain hP | hP := BitVec.eq_zero_or_eq_one (fieldP w) <;> obtain hU | hU := BitVec.eq_zero_or_eq_one (fieldU w) <;>
    obtain hW | hW := BitVec.eq_zero_or_eq_one (fieldW w) <;> simp [hP, hU, hW] at h ⊢ <;> exact h.symm

/-- Bits 31:28 of an instruction built with `cond`, when the set can carry it. -/
theorem encodedTop_eq {cond : BitVec 4} (ht : iset = .t32 → cond = 0b1110#4) :
    (if iset = .a32 then cond else 0b1110#4) = cond := by
  cases iset with
  | a32 => rfl
  | t32 => exact (ht rfl).symm

/-- The well-formedness that the builders' laws compute holds for a condition and an imm8 that the encoding admits. -/
theorem built_wellFormed {single : Bool} {cond : BitVec 4} {imm8 : BitVec 8} (ha : iset = .a32 → condOk cond = true)
    (heven : single = false → imm8Even imm8 = true) :
    ((decide (iset = .t32) || condOk cond) && (single || imm8Even imm8)) = true := by
  rw [Bool.and_eq_true]
  constructor
  · cases iset with
    | a32 => exact ha rfl
    | t32 => rfl
  · cases single with
    | false => exact heven rfl
    | true => rfl

/-- An instruction built of the fields of a word of R92 is well-formed, of the word's set, and encoded as the word. -/
theorem encodes_of_inSpace (hs : InSpace iset w)
    (hspec : i.iset = iset ∧
      encode i = encodeFields (if iset = .a32 then fieldCond w else 0b1110#4) (fieldP w) (fieldU w) (fieldD w) (fieldW w)
        (fieldRn w) (fieldVd w) (if !isDouble w then 0b1010#4 else 0b1011#4) (fieldImm8 w) ∧
      i.wellFormed = ((decide (iset = .t32) || condOk (fieldCond w)) && (!isDouble w || imm8Even (fieldImm8 w)))) :
    i.iset = iset ∧ i.wellFormed = true ∧ encode i = w := by
  obtain ⟨⟨ha, ht, h3, h1, hf⟩, heven⟩ := hs
  obtain ⟨hset, henc, hwf⟩ := hspec
  have hformat : (if !isDouble w then 0b1010#4 else 0b1011#4) = fieldFormat w := by
    obtain hf | hf := hf <;> simp [isDouble, fieldFormat, hf]
  refine ⟨hset, ?_, ?_⟩
  · rw [hwf]
    exact built_wellFormed (fun hi => bne_iff_ne.mpr (ha hi)) fun hd => (imm8Even_iff w).mpr (heven (by simpa using hd))
  · rw [henc, encodedTop_eq (cond := fieldCond w) ht, hformat]
    exact encodeFields_of_word w h3 h1

/-- What a word decodes to is encoded as the word: no bit of it is dropped (R91). -/
theorem encodes_of_decodeWord_ok (h : decodeWord iset w = .ok i) :
    i.iset = iset ∧ i.wellFormed = true ∧ encode i = w := by
  have hs := inSpace_of_decodeWord_ok h
  obtain ⟨hP, hU, hW, rfl⟩ | ⟨hP, hU, hW, rfl⟩ | ⟨hP, hU, rfl⟩ | ⟨hP, hU, hW, rfl⟩ := decodeWord_ok_cases h <;>
    refine encodes_of_inSpace hs ?_
  · rw [hP, hU, hW]; exact mkUndef001_spec ..
  · rw [hP, hU, hW]; exact mkUndef111_spec ..
  · rw [hP, hU]; exact mkIncrementAfter_spec ..
  · rw [hP, hU, hW]; exact mkDecrementBefore_spec ..

/-! ## The masks of the opcode table (R94, R120 to R128) -/

/-- A word is its fields, with bit 0 apart from the rest of imm8. -/
theorem append_fields (w : Word) :
    w.extractLsb' 28 4 ++ w.extractLsb' 25 3 ++ w.extractLsb' 24 1 ++ w.extractLsb' 23 1 ++ w.extractLsb' 22 1 ++
      w.extractLsb' 21 1 ++ w.extractLsb' 20 1 ++ w.extractLsb' 16 4 ++ w.extractLsb' 12 4 ++ w.extractLsb' 8 4 ++
      w.extractLsb' 1 7 ++ w.extractLsb' 0 1 = w := by
  have join := @BitVec.extractLsb'_append_extractLsb'_eq_extractLsb' 32
  rw [join (show 28 = 25 + 3 from rfl), join (show 25 = 24 + 1 from rfl), join (show 24 = 23 + 1 from rfl),
    join (show 23 = 22 + 1 from rfl), join (show 22 = 21 + 1 from rfl), join (show 21 = 20 + 1 from rfl),
    join (show 20 = 16 + 4 from rfl), join (show 16 = 12 + 4 from rfl), join (show 12 = 8 + 4 from rfl),
    join (show 8 = 1 + 7 from rfl), join (show 1 = 0 + 1 from rfl)]
  exact BitVec.extractLsb'_eq_self

theorem word_eq_iff_fields (v w : Word) :
    v = w ↔ v.extractLsb' 28 4 = w.extractLsb' 28 4 ∧ v.extractLsb' 25 3 = w.extractLsb' 25 3 ∧
      v.extractLsb' 24 1 = w.extractLsb' 24 1 ∧ v.extractLsb' 23 1 = w.extractLsb' 23 1 ∧
      v.extractLsb' 22 1 = w.extractLsb' 22 1 ∧ v.extractLsb' 21 1 = w.extractLsb' 21 1 ∧
      v.extractLsb' 20 1 = w.extractLsb' 20 1 ∧ v.extractLsb' 16 4 = w.extractLsb' 16 4 ∧
      v.extractLsb' 12 4 = w.extractLsb' 12 4 ∧ v.extractLsb' 8 4 = w.extractLsb' 8 4 ∧
      v.extractLsb' 1 7 = w.extractLsb' 1 7 ∧ v.extractLsb' 0 1 = w.extractLsb' 0 1 := by
  refine ⟨fun h => by simp [h], fun h => ?_⟩
  obtain ⟨h28, h25, h24, h23, h22, h21, h20, h16, h12, h8, h1, h0⟩ := h
  rw [← append_fields v, ← append_fields w, h28, h25, h24, h23, h22, h21, h20, h16, h12, h8, h1, h0]

/-- A word under a mask, field by field. -/
theorem and_eq_iff_fields (w m v : Word) :
    w &&& m = v ↔ w.extractLsb' 28 4 &&& m.extractLsb' 28 4 = v.extractLsb' 28 4 ∧
      w.extractLsb' 25 3 &&& m.extractLsb' 25 3 = v.extractLsb' 25 3 ∧
      w.extractLsb' 24 1 &&& m.extractLsb' 24 1 = v.extractLsb' 24 1 ∧
      w.extractLsb' 23 1 &&& m.extractLsb' 23 1 = v.extractLsb' 23 1 ∧
      w.extractLsb' 22 1 &&& m.extractLsb' 22 1 = v.extractLsb' 22 1 ∧
      w.extractLsb' 21 1 &&& m.extractLsb' 21 1 = v.extractLsb' 21 1 ∧
      w.extractLsb' 20 1 &&& m.extractLsb' 20 1 = v.extractLsb' 20 1 ∧
      w.extractLsb' 16 4 &&& m.extractLsb' 16 4 = v.extractLsb' 16 4 ∧
      w.extractLsb' 12 4 &&& m.extractLsb' 12 4 = v.extractLsb' 12 4 ∧
      w.extractLsb' 8 4 &&& m.extractLsb' 8 4 = v.extractLsb' 8 4 ∧
      w.extractLsb' 1 7 &&& m.extractLsb' 1 7 = v.extractLsb' 1 7 ∧
      w.extractLsb' 0 1 &&& m.extractLsb' 0 1 = v.extractLsb' 0 1 := by
  rw [word_eq_iff_fields]
  simp only [BitVec.extractLsb'_and]

/-- A mask that covers the whole of a field keeps it. -/
theorem and_full_mask :
    (∀ x : BitVec 3, x &&& 7#3 = x) ∧ (∀ x : BitVec 4, x &&& 15#4 = x) ∧ ∀ x : BitVec 1, x &&& 1#1 = x :=
  ⟨fun _ => BitVec.and_allOnes, fun _ => BitVec.and_allOnes, fun _ => BitVec.and_allOnes⟩

theorem encodeFields_bit0 {top : BitVec 4} {P U D W : BitVec 1} {Rn Vd format : BitVec 4} {imm8 : BitVec 8}
    (h : imm8Even imm8 = true) : (encodeFields top P U D W Rn Vd format imm8).extractLsb' 0 1 = 0#1 :=
  (imm8Even_iff _).mp (by rwa [fieldImm8, encodeFields_imm8])

theorem matchesWord_encode (hw : i.wellFormed = true) : i.row.matchesWord (encode i) = true := by
  obtain ⟨h3, h4, h1⟩ := and_full_mask
  rw [RowBits.matchesWord, beq_iff_eq, and_eq_iff_fields]
  cases i with
  | vldmA1 | vldmdbA1 | vpopA1 | undef001A1 | undef111A1 | vldmT1 | vldmdbT1 | vpopT1 | undef001T1 | undef111T1 =>
    simp only [Instr.wellFormed, Bool.and_eq_true] at hw
    simp only [Instr.row, encode]
    simp [encodeFields_bit0, hw, h3, h4, h1]
  | vldmA2 | vldmdbA2 | vpopA2 | undef001A2 | undef111A2 | vldmT2 | vldmdbT2 | vpopT2 | undef001T2 | undef111T2 =>
    simp only [Instr.row, encode]
    simp [h3, h4, h1]

/-- The word meets one of the four A32 masks and matches of R94. -/
def MeetsUndefinedMask (w : Word) : Prop :=
  w &&& 0x0FB00F01#32 = 0x0C300B00#32 ∨ w &&& 0x0FB00F01#32 = 0x0DB00B00#32 ∨
    w &&& 0x0FB00F00#32 = 0x0C300A00#32 ∨ w &&& 0x0FB00F00#32 = 0x0DB00A00#32

/-- The four A32 masks of R94, as fields: the page's fixed bits, P = U and W = 1, and bit 0 = 0 in the double form. -/
theorem fields_of_undefinedMasks (h : MeetsUndefinedMask w) :
    w.extractLsb' 25 3 = 0b110#3 ∧ w.extractLsb' 20 1 = 1#1 ∧ fieldP w = fieldU w ∧ fieldW w = 1#1 ∧
      (w.extractLsb' 8 4 = 0b1011#4 ∧ w.extractLsb' 0 1 = 0#1 ∨ w.extractLsb' 8 4 = 0b1010#4) := by
  obtain ⟨h3, h4, h1⟩ := and_full_mask
  unfold fieldP fieldU fieldW
  obtain h | h | h | h := h <;> rw [and_eq_iff_fields] at h <;> simp [h3, h4, h1] at h <;> simp [h]

/-- The four T32 masks of R94 are the A32 ones with bits 31:28 at 1110. -/
theorem undefinedMasks_of_t32
    (h : w &&& 0xFFB00F01#32 = 0xEC300B00#32 ∨ w &&& 0xFFB00F01#32 = 0xEDB00B00#32 ∨
      w &&& 0xFFB00F00#32 = 0xEC300A00#32 ∨ w &&& 0xFFB00F00#32 = 0xEDB00A00#32) :
    w.extractLsb' 28 4 = 0b1110#4 ∧ MeetsUndefinedMask w := by
  have low {m v : Word} (h : w &&& m = v) : w &&& (m &&& 0x0FFFFFFF#32) = v &&& 0x0FFFFFFF#32 := by
    rw [← BitVec.and_assoc, h]
  refine ⟨?_, h.imp low (Or.imp low (Or.imp low low))⟩
  obtain ⟨-, h4, -⟩ := and_full_mask
  obtain h | h | h | h := h <;> simpa [h4] using ((and_eq_iff_fields _ _ _).mp h).1

/-- A word of R94's masks, with bits 31:28 that its set can have, decodes to an UNDEFINED row. -/
theorem decodesUndefined_of_masks (ha : iset = .a32 → w.extractLsb' 28 4 ≠ 0b1111#4)
    (ht : iset = .t32 → w.extractLsb' 28 4 = 0b1110#4) (h : MeetsUndefinedMask w) :
    DecodesUndefined iset w := by
  obtain ⟨h3, h1, hPU, hW, hf⟩ := fields_of_undefinedMasks h
  have hs : InSpace iset w := by
    refine ⟨⟨ha, ht, h3, h1, hf.imp_left And.left⟩, fun hd => ?_⟩
    obtain ⟨-, h0⟩ | hf := hf
    · exact h0
    · simp [isDouble, hf] at hd
  exact decodesUndefined_of_inSpace hs hPU hW

/-- An UNDEFINED row whose condition passes raises (R135). -/
theorem exec_undefined_of_passes {s : State} (hu : isUndefinedRow i = true) (hp : Passes (srcOf i) s) :
    exec i s = .fault (.undefined s) := by
  rw [exec_of_isUndefinedRow hu, undefinedWord, conditional_of_passes hp]; rfl

theorem exec_undefined_of_decodesUndefined (h : DecodesUndefined iset w) :
    ∃ i, decodeWord iset w = .ok i ∧ ∀ s, Passes (srcOf i) s → exec i s = .fault (.undefined s) := by
  obtain ⟨i, hi, hu⟩ := h
  exact ⟨i, hi, fun _ => exec_undefined_of_passes hu⟩

/-! ## A step on a word that the decoder refuses (R93, R204) -/

theorem step_of_decode_reject {s : State} {x : Reject} (hf : Fetches s w)
    (h : decodeWord s.iset w = .reject x) : step s = .refused (.notThisPage x) := by
  simp only [step, fetch_word_iff.mpr hf, h]

end Sys2Proof.Spec
end

section
/-! SUPPORT. The assembler and the disassembler of R98 to R104: which lines assemble, what they are encoded as, and that a printed
line names its instruction's own fields. -/

namespace Sys2Proof.Spec

open Sys2Proof.Machine

variable {iset : ISet} {a : AsmLine} {i : Instr} {f : Form}

/-! ## What a line assembles to -/

/-- The assembler's tests are the rules of R98 to R104. -/
theorem allowedLine_iff (iset : ISet) (a : AsmLine) :
    AllowedLine iset a ↔ (a.listOk && a.sizeOk && a.baseOk iset && a.condOk iset) = true := by
  have hlist : a.listOk = true ↔ a.first ≤ a.last ∧ a.last ≤ 31 ∧
      (a.single = false → a.last + 1 - a.first ≤ 16) := by
    cases hs : a.single <;> simp [AsmLine.listOk, AsmLine.count, hs] <;> omega
  have hsize : a.sizeOk = true ↔ ∀ n, a.size = some n → n = if a.single then 32 else 64 := by
    unfold AsmLine.sizeOk
    cases a.size <;> simp
  have hbase : a.baseOk iset = true ↔ a.base ≤ 15 ∧ (a.mnemonic = .vldmdb → a.bang = true) ∧
      (a.mnemonic = .vpop → a.bang = true ∧ a.base = 13) ∧ (a.base = 15 → a.bang = false ∧ iset = .a32) := by
    simp only [AsmLine.baseOk, Bool.and_eq_true, Bool.or_eq_true, bne_iff_ne, beq_iff_eq, decide_eq_true_eq,
      Bool.not_eq_true', and_assoc, ← imp_iff_not_or, Nat.lt_succ_iff]
  have hcond : a.condOk iset = true ↔
      ∀ c, a.cond = some c → (iset = .a32 → c ≠ 0b1111#4) ∧ (iset = .t32 → c = 0b1110#4) := by
    unfold AsmLine.condOk
    cases iset <;> cases a.cond <;> simp
  simp only [Bool.and_eq_true, hlist, hsize, hbase, hcond]
  constructor
  · rintro ⟨h1, h2, h3, h4, h5, h6, h7, h8, h9⟩
    exact ⟨⟨⟨⟨h1, h2, h3⟩, h4⟩, h5, h6, h7, h8⟩, h9⟩
  · rintro ⟨⟨⟨⟨h1, h2, h3⟩, h4⟩, h5, h6, h7, h8⟩, h9⟩
    exact ⟨h1, h2, h3, h4, h5, h6, h7, h8, h9⟩

/-- The instruction of a line, allowed or not. -/
def lineInstr (iset : ISet) (a : AsmLine) : Instr :=
  if a.mnemonic = .vldmdb then
    mkDecrementBefore iset a.single (a.cond.getD 0b1110#4) a.dBit (BitVec.ofNat 4 a.base) a.vd a.imm8
  else
    mkIncrementAfter iset a.single (a.cond.getD 0b1110#4) a.dBit (if a.bang then 1#1 else 0#1) (BitVec.ofNat 4 a.base) a.vd
      a.imm8

theorem assemble_eq_some_iff : assemble iset a = some i ↔ AllowedLine iset a ∧ lineInstr iset a = i := by
  unfold assemble lineInstr
  rw [allowedLine_iff]
  split
  · next h =>
    rw [h]
    cases a.mnemonic <;> simp
  · next h => simp [h]

theorem imm8Even_of_doubles (h : a.single = false) : imm8Even a.imm8 = true := by
  simp [imm8Even, AsmLine.imm8, h, BitVec.getLsbD, Nat.testBit_zero]

/-- The condition of an allowed line is one its set can carry. -/
theorem AllowedLine.condOk (h : AllowedLine iset a) :
    (iset = .a32 → Sys2Proof.condOk (a.cond.getD 0b1110#4) = true) ∧ (iset = .t32 → a.cond.getD 0b1110#4 = 0b1110#4) := by
  cases hc : a.cond with
  | none => exact ⟨fun _ => rfl, fun _ => rfl⟩
  | some c => simpa [Sys2Proof.condOk] using h.cond c hc

/-- An allowed line's instruction: its set, that it is well-formed, and its word. -/
theorem lineInstr_spec (h : AllowedLine iset a) :
    (lineInstr iset a).iset = iset ∧ (lineInstr iset a).wellFormed = true ∧
    encode (lineInstr iset a) =
      encodeFields (a.cond.getD 0b1110#4) (if a.mnemonic = .vldmdb then 1 else 0) (if a.mnemonic = .vldmdb then 0 else 1)
        a.dBit (if a.bang then 1 else 0) (BitVec.ofNat 4 a.base) a.vd (if a.single then 0b1010#4 else 0b1011#4) a.imm8 := by
  obtain ⟨ha, ht⟩ := h.condOk
  have htop := encodedTop_eq ht
  have hwf := built_wellFormed ha (imm8Even_of_doubles (a := a))
  unfold lineInstr
  by_cases hm : a.mnemonic = .vldmdb
  · obtain ⟨h1, h2, h3⟩ :=
      mkDecrementBefore_spec iset a.single (a.cond.getD 0b1110#4) a.dBit (BitVec.ofNat 4 a.base) a.vd a.imm8
    simp only [if_pos hm, h.decrement hm, h1, h2, h3, htop, hwf, if_true, and_self]
  · obtain ⟨h1, h2, h3⟩ := mkIncrementAfter_spec iset a.single (a.cond.getD 0b1110#4) a.dBit (if a.bang then 1#1 else 0#1)
      (BitVec.ofNat 4 a.base) a.vd a.imm8
    rw [if_neg hm, if_neg hm, if_neg hm, h1, h2, h3, htop]
    exact ⟨rfl, hwf, rfl⟩

/-- The register fields of an allowed S list (R102). -/
theorem AllowedLine.single_fields (h : AllowedLine iset a) (hs : a.single = true) :
    a.vd.toNat = a.first / 2 ∧ a.dBit.toNat = a.first % 2 ∧ a.imm8.toNat = a.last + 1 - a.first := by
  have := h.ordered
  have := h.last
  simp only [AsmLine.vd, AsmLine.dBit, AsmLine.imm8, AsmLine.count, hs, if_true, BitVec.toNat_ofNat]
  omega

/-- The register fields of an allowed D list (R103). -/
theorem AllowedLine.double_fields (h : AllowedLine iset a) (hs : a.single = false) :
    a.dBit.toNat = a.first / 16 ∧ a.vd.toNat = a.first % 16 ∧ a.imm8.toNat = 2 * (a.last + 1 - a.first) := by
  have := h.ordered
  have := h.last
  simp only [AsmLine.vd, AsmLine.dBit, AsmLine.imm8, AsmLine.count, hs, Bool.false_eq_true, if_false, BitVec.toNat_ofNat]
  omega

/-! ## The line of an instruction -/

/-- The mnemonic that the disassembler prints: VPOP for its rows (R104), else by the addressing form. -/
def printedMnemonic (i : Instr) (f : Form) : Mnemonic :=
  if isVpopRow i then .vpop else if f.add then .vldmia else .vldmdb

/-- The suffix that the disassembler prints. -/
def printedCond : CondSource → Option (BitVec 4)
  | .field c => shownCond c
  | .it => none

/-- The line that the disassembler prints, where the list and the base can be written. -/
def printedLine (i : Instr) (f : Form) : AsmLine := plainLine (printedMnemonic i f) (printedCond f.src) f.operands

section

variable (iset : ISet) (single : Bool) (cond : BitVec 4) (add wback : Bool) (D : BitVec 1) (Rn Vd : BitVec 4) (imm8 : BitVec 8)

@[simp] theorem encodingForm_src : (encodingForm iset single cond add wback D Rn Vd imm8).src = condSource iset cond := by
  cases single <;> rfl

@[simp] theorem encodingForm_add : (encodingForm iset single cond add wback D Rn Vd imm8).add = add := by
  cases single <;> rfl

@[simp] theorem encodingForm_wback : (encodingForm iset single cond add wback D Rn Vd imm8).wback = wback := by
  cases single <;> rfl

end

theorem disassemble_of_loadForm (h : loadForm i = some f) :
    disassemble i = legalLine (printedMnemonic i f) i.iset (printedCond f.src) f.operands := by
  cases i with
  | vldmA1 | vldmdbA1 | vpopA1 | vldmT1 | vldmdbT1 | vpopT1 => cases h; rw [operands_doubleForm]; rfl
  | vldmA2 | vldmdbA2 | vpopA2 | vldmT2 | vldmdbT2 | vpopT2 => cases h; rw [operands_singleForm]; rfl
  | undef001A1 | undef111A1 | undef001A2 | undef111A2 | undef001T1 | undef111T1 | undef001T2 | undef111T2 => cases h

theorem printedMnemonic_eq_vldmdb_iff (h : loadForm i = some f) : printedMnemonic i f = .vldmdb ↔ f.add = false := by
  cases i <;> cases h <;> simp [printedMnemonic, isVpopRow, doubleForm, singleForm]

theorem printedMnemonic_eq_vpop_iff (i : Instr) (f : Form) : printedMnemonic i f = .vpop ↔ isVpopRow i = true := by
  unfold printedMnemonic
  split
  · next h => simp [h]
  · next h => split <;> simp [h]

theorem loadForm_of_isUndefinedRow (h : isUndefinedRow i = true) : loadForm i = none := by
  cases i <;> cases h <;> rfl

theorem disassemble_of_isUndefinedRow (h : isUndefinedRow i = true) : disassemble i = none := by
  cases i <;> cases h <;> rfl

theorem legalLine_eq_some_iff {m : Mnemonic} {c : Option (BitVec 4)} :
    legalLine m iset c f.operands = some a ↔
      (Legal f ∧ (f.n = 15 → f.wback = false ∧ iset = .a32)) ∧ plainLine m c f.operands = a := by
  have hlegal : ¬ (f.operands.regs = 0 ∨ f.operands.tooMany = true ∨
      (f.operands.n = 15 ∧ (f.operands.wback = true ∨ iset ≠ .a32))) ↔
      Legal f ∧ (f.n = 15 → f.wback = false ∧ iset = .a32) := by
    rw [Legal, ← tooMany_eq_false_iff, and_assoc]
    simp only [not_or, Bool.not_eq_true, not_and, not_not]
    exact and_congr_left' Nat.one_le_iff_ne_zero.symm
  unfold legalLine
  rw [← hlegal]
  split
  · next h => simp [h]
  · next h => simp [h]

/-- An instruction is printed exactly when it has a form whose list and base can be written. -/
theorem disassemble_eq_some_iff :
    disassemble i = some a ↔ ∃ f, loadForm i = some f ∧ (Legal f ∧ (f.n = 15 → f.wback = false ∧ i.iset = .a32)) ∧
      printedLine i f = a := by
  obtain ⟨f, hf⟩ | hu := loadForm_or_isUndefinedRow i
  · rw [disassemble_of_loadForm hf, legalLine_eq_some_iff, hf]
    simp [printedLine]
  · rw [disassemble_of_isUndefinedRow hu]
    simp [loadForm_of_isUndefinedRow hu]

/-- Only the A32 rows carry a condition, which is never 1111 (R81, R82). -/
theorem a32_of_srcOf_field {c : BitVec 4} (hw : i.wellFormed = true) (h : srcOf i = .field c) :
    i.iset = .a32 ∧ Sys2Proof.condOk c = true := by
  cases i with
  | vldmA1 | vldmdbA1 | vpopA1 | undef001A1 | undef111A1 | vldmA2 | vldmdbA2 | vpopA2 | undef001A2 | undef111A2 =>
    cases h
    simp only [Instr.wellFormed, Bool.and_eq_true] at hw
    exact ⟨rfl, by simp only [hw]⟩
  | vldmT1 | vldmdbT1 | vpopT1 | undef001T1 | undef111T1 | vldmT2 | vldmdbT2 | vpopT2 | undef001T2 | undef111T2 => cases h

/-- A printed line is one that the rules allow. -/
theorem allowedLine_printedLine (hw : i.wellFormed = true) (hf : loadForm i = some f) (hl : Legal f)
    (hpc : f.n = 15 → f.wback = false ∧ i.iset = .a32) : AllowedLine i.iset (printedLine i f) := by
  have hbase : f.n ≤ 15 := by
    obtain ⟨_, _, _, _, Rn, _, _, ⟨rfl, -⟩ | rfl⟩ := form_of_loadForm hf <;> exact Nat.le_of_lt_succ Rn.isLt
  have hbang : (printedMnemonic i f = .vldmdb → f.wback = true) ∧
      (printedMnemonic i f = .vpop → f.wback = true ∧ f.n = 13) := by
    cases i <;> cases hf <;> simp [printedMnemonic, isVpopRow, doubleForm, singleForm]
  have hcond : ∀ c, printedCond f.src = some c → (i.iset = .a32 → c ≠ 0b1111#4) ∧ (i.iset = .t32 → c = 0b1110#4) := by
    intro c hc
    cases hsrc : f.src with
    | field cond =>
      obtain ⟨hi, hok⟩ := a32_of_srcOf_field hw ((srcOf_of_loadForm hf).trans hsrc)
      obtain ⟨-, rfl⟩ : cond ≠ 0b1110#4 ∧ cond = c := by simpa [hsrc, printedCond, shownCond] using hc
      exact ⟨fun _ => bne_iff_ne.mp hok, fun ht => by rw [hi] at ht; cases ht⟩
    | it => rw [hsrc] at hc; cases hc
  obtain ⟨hcount, hmany, hfit⟩ := hl
  have hfirst : (printedLine i f).first = f.first := rfl
  have hlast : (printedLine i f).last = f.first + f.count - 1 := rfl
  exact {
    ordered := by omega
    last := by omega
    doubles := fun hs => by
      have := hmany (by simpa [printedLine, plainLine, Form.operands] using hs)
      omega
    size := fun n hn => by cases hn
    base := hbase
    decrement := hbang.1
    pop := hbang.2
    pcBase := hpc
    cond := hcond }

/-- The line printed for the fields of an instruction assembles to those fields. -/
theorem plainLine_fields {m : Mnemonic} {c : Option (BitVec 4)} {single add wback : Bool} {cond Rn Vd : BitVec 4}
    {D : BitVec 1} {imm8 : BitVec 8} (heven : single = false → imm8Even imm8 = true)
    (hl : Legal (encodingForm iset single cond add wback D Rn Vd imm8))
    (ha : plainLine m c (encodingForm iset single cond add wback D Rn Vd imm8).operands = a) :
    a.single = single ∧ a.dBit = D ∧ BitVec.ofNat 4 a.base = Rn ∧ a.vd = Vd ∧ a.imm8 = imm8 := by
  obtain ⟨hcount, -⟩ := hl
  subst ha
  have hD := D.isLt
  have hVd := Vd.isLt
  have himm := imm8.isLt
  cases single with
  | false =>
    have h2 : imm8.toNat % 2 = 0 := by simpa [imm8Even, BitVec.getLsbD, Nat.testBit_zero] using heven rfl
    simp only [encodingForm, doubleForm, Bool.false_eq_true, if_false] at hcount
    refine ⟨rfl, ?_, ?_, ?_, ?_⟩ <;> apply BitVec.eq_of_toNat_eq <;>
      simp [plainLine, AsmLine.dBit, AsmLine.vd, AsmLine.imm8, AsmLine.count, encodingForm, doubleForm, Form.operands] <;>
      omega
  | true =>
    simp only [encodingForm, singleForm, if_true] at hcount
    refine ⟨rfl, ?_, ?_, ?_, ?_⟩ <;> apply BitVec.eq_of_toNat_eq <;>
      simp [plainLine, AsmLine.dBit, AsmLine.vd, AsmLine.imm8, AsmLine.count, encodingForm, singleForm, Form.operands] <;>
      omega

/-- The suffix printed for a condition is read back as it, 1110 being the one that is not printed. -/
theorem printedCond_condSource {cond : BitVec 4} (ht : iset = .t32 → cond = 0b1110#4) :
    (printedCond (condSource iset cond)).getD 0b1110#4 = cond := by
  cases iset with
  | a32 =>
    simp only [condSource, printedCond, shownCond]
    split
    · next h => exact h.symm
    · rfl
  | t32 => exact (ht rfl).symm

theorem ite_beq_one (W : BitVec 1) : (if (W == 1#1) = true then 1#1 else 0#1) = W := by
  obtain rfl | rfl := BitVec.eq_zero_or_eq_one W <;> rfl

/-- Assembling a printed line builds the instruction again. -/
theorem lineInstr_of_disassemble (hw : i.wellFormed = true) (h : disassemble i = some a) : lineInstr i.iset a = i := by
  obtain ⟨f, hf, ⟨hl, -⟩, ha⟩ := disassemble_eq_some_iff.mp h
  have hdec := decodeWord_encode hw
  obtain ⟨⟨-, ht, -⟩, heven⟩ := inSpace_of_decodeWord_ok hdec
  replace ht : i.iset = .t32 → fieldCond (encode i) = 0b1110#4 := ht
  have heven' : (!isDouble (encode i)) = false → imm8Even (fieldImm8 (encode i)) = true := fun hd =>
    (imm8Even_iff _).mpr (heven (by simpa using hd))
  have hcond : a.cond = printedCond f.src := ha ▸ rfl
  have hbang : a.bang = f.wback := ha ▸ rfl
  have hmnem : a.mnemonic = printedMnemonic i f := ha ▸ rfl
  obtain ⟨-, -, -, hi⟩ | ⟨-, -, -, hi⟩ | ⟨-, -, hi⟩ | ⟨-, -, -, hi⟩ := decodeWord_ok_cases hdec
  · have hu : isUndefinedRow i = true := hi ▸ isUndefinedRow_mkUndef001 ..
    cases (loadForm_of_isUndefinedRow hu).symm.trans hf
  · have hu : isUndefinedRow i = true := hi ▸ isUndefinedRow_mkUndef111 ..
    cases (loadForm_of_isUndefinedRow hu).symm.trans hf
  · have hform := (congrArg loadForm hi).symm.trans hf
    rw [loadForm_mkIncrementAfter, Option.some.injEq] at hform
    subst hform
    obtain ⟨hs, hD, hRn, hVd, himm⟩ := plainLine_fields heven' hl ha
    refine Eq.trans ?_ hi.symm
    have hm : a.mnemonic ≠ .vldmdb := by rw [Ne, hmnem, printedMnemonic_eq_vldmdb_iff hf, encodingForm_add]; simp
    rw [lineInstr, if_neg hm, hs, hD, hRn, hVd, himm, hcond, encodingForm_src, printedCond_condSource ht, hbang,
      encodingForm_wback, ite_beq_one]
  · have hform := (congrArg loadForm hi).symm.trans hf
    rw [loadForm_mkDecrementBefore, Option.some.injEq] at hform
    subst hform
    obtain ⟨hs, hD, hRn, hVd, himm⟩ := plainLine_fields heven' hl ha
    refine Eq.trans ?_ hi.symm
    have hm : a.mnemonic = .vldmdb := by rw [hmnem, printedMnemonic_eq_vldmdb_iff hf, encodingForm_add]
    rw [lineInstr, if_pos hm, hs, hD, hRn, hVd, himm, hcond, encodingForm_src, printedCond_condSource ht]

/-! ## VPOP (R104) -/

/-- The VPOP rows are the words that R104 names. -/
theorem isVpopRow_iff_of_wellFormed (hw : i.wellFormed = true) :
    isVpopRow i = true ↔ fieldP (encode i) = 0#1 ∧ fieldU (encode i) = 1#1 ∧ fieldW (encode i) = 1#1 ∧
      fieldRn (encode i) = 0b1101#4 := by
  unfold fieldP fieldU fieldW fieldRn
  cases i with
  | vldmA1 | vldmA2 | vldmT1 | vldmT2 =>
    simp only [Instr.wellFormed, Bool.and_eq_true, isVpop, Bool.not_eq_true', Bool.and_eq_false_imp, beq_iff_eq,
      beq_eq_false_iff_ne] at hw
    simp only [encode, isVpopRow]
    simp +contextual [hw]
  | vpopA1 | vpopA2 | vpopT1 | vpopT2 => simp only [encode, isVpopRow]; simp
  | vldmdbA1 | vldmdbA2 | vldmdbT1 | vldmdbT2 => simp only [encode, isVpopRow]; simp
  | undef001A1 | undef111A1 | undef001A2 | undef111A2 | undef001T1 | undef111T1 | undef001T2 | undef111T2 =>
    simp only [encode, isVpopRow]; simp

theorem assemble_vpop_eq_vldm (hb : a.base = 13) (hbang : a.bang = true) :
    assemble iset { a with mnemonic := .vpop } = assemble iset { a with mnemonic := .vldm } := by
  have hbase : AsmLine.baseOk iset { a with mnemonic := .vpop } = AsmLine.baseOk iset { a with mnemonic := .vldm } := by
    simp [AsmLine.baseOk, hb, hbang]
  unfold assemble
  rw [hbase]
  rfl

/-! ## T32 outside an IT block (R33, R86) -/

section NoItBlock

variable {s : State}

theorem complete_it_eq_field (c : BitVec 4) (h : s.itstate = 0#8) : complete .it s = complete (.field c) s := by
  simp [complete, itAfter_eq_nextIt, h]

theorem transfer_it_eq_field (c : BitVec 4) (o : Operands) (h : s.itstate = 0#8) :
    transfer .it o s = transfer (.field c) o s := by
  unfold transfer
  split
  · rfl
  · split
    · rfl
    · next hl => exact complete_it_eq_field c ((sameControl_writeBack_of_loadList hl).itstate.trans h)

theorem checkedTransfer_it_eq_field (c : BitVec 4) (o : Operands) (h : s.itstate = 0#8) :
    checkedTransfer .it o s = checkedTransfer (.field c) o s := by
  simp only [checkedTransfer, transfer_it_eq_field c o h]

theorem passedVldm_it_eq_field (c : BitVec 4) (o : Operands) (h : s.itstate = 0#8) :
    passedVldm .it o s = passedVldm (.field c) o s := by
  have hforget := complete_it_eq_field c ((sameControl_forgetUnder s o).itstate.trans h)
  simp only [passedVldm, noRegisters, tooManyRegisters, complete_it_eq_field c h, checkedTransfer_it_eq_field c o h, hforget]

theorem conditional_it_eq_always {p q : Host.Outcome State Fault Refusal} (h : s.itstate = 0#8) (hpq : p = q) :
    conditional .it s p = conditional (.field 14) s q := by
  rw [conditional_of_passes (src := .it) (Or.inl h), conditional_of_passes (src := .field 14) rfl, hpq]

theorem vldm_it_eq_always (o : Operands) (h : s.itstate = 0#8) : vldm .it o s = vldm (.field 14) o s :=
  conditional_it_eq_always h (passedVldm_it_eq_field 14 o h)

theorem undefinedWord_it_eq_always (h : s.itstate = 0#8) : undefinedWord .it s = undefinedWord (.field 14) s :=
  conditional_it_eq_always h rfl

end NoItBlock

end Sys2Proof.Spec
end

section
/-! SUPPORT. The statements of 30_encoding.md, settled. -/

namespace Sys2Proof.Proofs

open Sys2Proof.Machine Sys2Proof.Spec

/-- Settles O1: the word's fields are read back one by one. -/
theorem decodeOfEncodeIsIdentity : Obligations.DecodeOfEncodeIsIdentity :=
  fun _ hw => decodeWord_encode hw

/-- Settles O2: each answer of the decoder is built of the word's fields, and these make up the word. -/
theorem encodeOfDecodeIsIdentity : Obligations.EncodeOfDecodeIsIdentity :=
  fun _ _ _ h => encodes_of_decodeWord_ok h

/-- Settles O5: past steps 1 to 3 and 5 of R91 the decoder tests P U W alone. -/
theorem puwSelectsMeaning : Obligations.PuwSelectsMeaning := by
  intro iset w hp heven
  have hs : InSpace iset w := ⟨hp, heven⟩
  have hincr (hP : fieldP w = 0#1) (hU : fieldU w = 1#1) := decodesTo_incrementAfter hs hP hU
  simp only [puw_eq_iff]
  refine ⟨?_, ?_, ?_, ?_, ?_, ?_, ?_, ?_⟩ <;> rintro ⟨hP, hU, hW⟩
  · exact decodeWord_relatedEncodings hs hP hU hW
  · exact decodesUndefined_of_inSpace hs (hP.trans hU.symm) hW
  · rw [hW] at hincr; exact hincr hP hU
  · refine ⟨by rw [hW] at hincr; exact hincr hP hU, fun hRn => ⟨_, decodeWord_incrementAfter hs hP hU, ?_⟩⟩
    rw [isVpopRow_mkIncrementAfter, hW, fieldRn, hRn]; rfl
  · exact decodeWord_vldr hs hP hW
  · exact decodesTo_decrementBefore hs hP hU hW
  · exact decodeWord_vldr hs hP hW
  · exact decodesUndefined_of_inSpace hs (hP.trans hU.symm) hW

/-- Settles O6: the step refuses what the decoder rejects, by the same name. -/
theorem neighbouringWordsAreRefused : Obligations.NeighbouringWordsAreRefused := by
  intro s w hf
  refine ⟨fun hi hc => ?_, fun hp heven hpuw => ?_, fun hp heven hP hW => ?_, fun hp hd hodd => ?_, fun hi hc => ?_,
    fun ha ht hp => ?_⟩ <;> apply step_of_decode_reject hf
  · rw [hi, decodeWord_of_cond1111 hc]
  · obtain ⟨hP, hU, hW⟩ := (puw_eq_iff w _).mp hpuw
    exact decodeWord_relatedEncodings ⟨hp, heven⟩ hP hU hW
  · exact decodeWord_vldr ⟨hp, heven⟩ hP hW
  · exact decodeWord_of_fldmx hp hd hodd
  · rw [hi, decodeWord_of_not1110 hc]
  · exact decodeWord_of_not_onPage ha ht hp

/-- Settles O7: the masks fix the page's bits, P = U and W = 1. -/
theorem undefinedMasksRaise : Obligations.UndefinedMasksRaise := by
  refine fun w => ⟨fun hc hmask => exec_undefined_of_decodesUndefined ?_, fun hmask => exec_undefined_of_decodesUndefined ?_⟩
  · exact decodesUndefined_of_masks (fun _ => hc) (fun h => by cases h) hmask
  · obtain ⟨hc, hmask⟩ := undefinedMasks_of_t32 hmask
    exact decodesUndefined_of_masks (fun h => by cases h) (fun _ => hc) hmask

/-- Settles O8: the word is the encoding of what it decodes to, and an encoded word has its row's fixed bits. -/
theorem decodedWordMatchesItsTableRow : Obligations.DecodedWordMatchesItsTableRow := by
  intro iset w i h
  obtain ⟨-, hwf, rfl⟩ := encodes_of_decodeWord_ok h
  exact matchesWord_encode hwf

/-- Settles O10: the words by the round trip, the printed line by its mnemonic, and the meanings are the same `vldm`. -/
theorem vpopIsAnAlias : Obligations.VpopIsAnAlias := by
  refine ⟨fun iset w i h => ?_, fun i a h => ?_, fun iset a hb hbang => assemble_vpop_eq_vldm hb hbang,
    fun c D Vd imm8 s => ⟨rfl, rfl, rfl, rfl⟩⟩
  · obtain ⟨-, hwf, rfl⟩ := encodes_of_decodeWord_ok h
    exact isVpopRow_iff_of_wellFormed hwf
  · obtain ⟨f, -, -, rfl⟩ := disassemble_eq_some_iff.mp h
    exact printedMnemonic_eq_vpop_iff i f

/-- Settles O11: an allowed line builds an instruction of its own fields, and a printed line is allowed and names its
instruction's fields. -/
theorem assembleOfDisassemble : Obligations.AssembleOfDisassemble := by
  refine ⟨fun i f hw hf hl hpc => ?_, fun iset a h => ?_, fun i a hw h => ?_⟩
  · exact ⟨_, disassemble_eq_some_iff.mpr ⟨f, hf, ⟨hl, hpc⟩, rfl⟩, allowedLine_printedLine hw hf hl hpc⟩
  · obtain ⟨hset, hwf, henc⟩ := lineInstr_spec h
    refine ⟨_, assemble_eq_some_iff.mpr ⟨h, rfl⟩, hset, hwf, ?_, ?_, ?_⟩
    · rw [henc, encodeFields_top]
    · rw [henc, encodeFields_Rn, BitVec.toNat_ofNat]
      exact Nat.mod_eq_of_lt (Nat.lt_succ_of_le h.base)
    · rw [henc, puw, encodeFields_P, encodeFields_U, encodeFields_W]
      by_cases hm : a.mnemonic = .vldmdb
      · simp [hm, h.decrement hm]
      · cases hb : a.bang <;> simp [hm]
  · obtain ⟨f, hf, ⟨hl, hpc⟩, rfl⟩ := disassemble_eq_some_iff.mp h
    exact assemble_eq_some_iff.mpr ⟨allowedLine_printedLine hw hf hl hpc, lineInstr_of_disassemble hw h⟩

/-- Settles O12: the fields of the line that assembled, which is an allowed one. -/
theorem registerListFields : Obligations.RegisterListFields := by
  intro iset a i h
  obtain ⟨hal, rfl⟩ := assemble_eq_some_iff.mp h
  obtain ⟨-, -, henc⟩ := lineInstr_spec hal
  rw [henc, encodeFields_format, encodeFields_Vd, encodeFields_D, encodeFields_imm8]
  have := hal.ordered
  refine ⟨by omega, fun hs => ?_, fun hs => ?_⟩
  · exact ⟨if_pos hs, hal.single_fields hs⟩
  · exact ⟨hal.doubles hs, by rw [hs]; rfl, hal.double_fields hs⟩

/-- Settles O35: with itstate 0 the condition is 1110 and completion leaves itstate. The base is looked at alike in both, so that
the statement's exclusion of the PC is not needed. -/
theorem t32ActsAsA32Always : Obligations.T32ActsAsA32Always := by
  intro D W Rn Vd imm8 s h _
  have hload (o : Operands) : vldm .it o s = vldm (.field 14) o s := vldm_it_eq_always o h
  have hundef : undefinedWord .it s = undefinedWord (.field 14) s := undefinedWord_it_eq_always h
  exact ⟨hload _, hload _, hload _, hundef, hundef, hload _, hload _, hload _, hundef, hundef⟩

/-- Settles O9: each word is the encoding of its instruction, which the decoder takes back. -/
theorem sampleWordsDecode : Obligations.SampleWordsDecode :=
  ⟨decodeWord_encode (i := .vldmA1 14 0 0 0 0 8) rfl, decodeWord_encode (i := .vldmdbA2 14 0 4 15 2) rfl,
    decodeWord_encode (i := .vpopA1 14 0 8 16) rfl, decodeWord_encode (i := .vldmA2 1 1 1 6 2 1) rfl,
    decodeWord_encode (i := .vldmdbT1 0 1 4 4) rfl, decodeWord_encode (i := .vldmT2 1 1 0 0 2) rfl⟩

/-- Settles O13: a concatenation is a sum of its parts as numbers. -/
theorem operandAssembly : Obligations.OperandAssembly := by
  intro D Vd imm8
  have hoffset : (offset imm8).toNat = 4 * imm8.toNat := by
    rw [offset_eq_ofNat, BitVec.toNat_ofNat]; omega
  refine ⟨?_, ?_, hoffset, hoffset, fun h0 => ?_, ?_, rfl⟩
  · rw [firstDouble, toNat_append_add]; omega
  · rw [firstSingle, toNat_append_add]; omega
  · have h2 := congrArg BitVec.toNat h0
    rw [BitVec.extractLsb'_toNat] at h2
    simp only [BitVec.toNat_ofNat, Nat.shiftRight_zero] at h2
    rw [hoffset, countDouble]
    omega
  · rw [BitVec.extractLsb'_toNat, countDouble, Nat.shiftRight_eq_div_pow]
    omega

end Sys2Proof.Proofs
end

section
/-! SUPPORT. What the step of R130 leaves in the statements' vocabulary: the loaded list (R132), the list after a Data Abort
(R141), the registers of R138, and a second transfer from the same start (R143). -/

namespace Sys2Proof.Spec

open Sys2Proof.Machine

variable {i j : Instr} {f : Form} {s t u : State} {a : Word} {h : Nat}

/-! ## A32 conditions, and the UNDEFINED rows (R134, R135) -/

theorem srcOf_of_a32 (hi : i.iset = .a32) : ∃ c, srcOf i = .field c := by
  cases i <;> cases hi <;> exact ⟨_, rfl⟩

/-- A row that loads is not one of R94. -/
theorem isUndefinedRow_of_loadForm (hf : loadForm i = some f) : isUndefinedRow i = false := by
  rw [← Bool.not_eq_true]
  intro hu
  cases (loadForm_of_isUndefinedRow hu).symm.trans hf

/-- The decoder answers an UNDEFINED row for P U W = 001 and 111, and for no other. -/
theorem isUndefinedRow_iff_puw {iset : ISet} {w : Word} (hdec : decodeWord iset w = .ok i) :
    isUndefinedRow i = true ↔ puw w = 0b001#3 ∨ puw w = 0b111#3 := by
  rw [puw_eq_iff, puw_eq_iff]
  obtain ⟨hP, hU, hW, rfl⟩ | ⟨hP, hU, hW, rfl⟩ | ⟨hP, hU, rfl⟩ | ⟨hP, hU, hW, rfl⟩ := decodeWord_ok_cases hdec
  · simp [isUndefinedRow_mkUndef001, hP, hU, hW]
  · simp [isUndefinedRow_mkUndef111, hP, hU, hW]
  · simp [isUndefinedRow_of_loadForm (loadForm_mkIncrementAfter ..), hP, hU]
  · simp [isUndefinedRow_of_loadForm (loadForm_mkDecrementBefore ..), hP, hU]

/-! ## The halves of the SIMD&FP file (R26) -/

theorem isUnknownHalf_eq_true_iff : s.isUnknownHalf h = true ↔ s.unknownS[h]? = some true := by
  simp [State.isUnknownHalf, Option.getD_eq_iff]

theorem isUnknownHalf_eq_false_iff (hh : h < 64) : s.isUnknownHalf h = false ↔ s.unknownS[h]? = some false := by
  simp [State.isUnknownHalf, hh]

/-- The marks agree where the tests of a mark do. -/
theorem unknownS_congr (hu : t.isUnknownHalf h = s.isUnknownHalf h) : t.unknownS[h]? = s.unknownS[h]? := by
  by_cases hh : h < 64
  · simpa [State.isUnknownHalf, hh] using hu
  · simp [hh]

theorem readS_eq_some_iff {k : Nat} {w : Word} :
    s.readS k = some w ↔ s.isUnknownHalf k = false ∧ k < 32 ∧ half s k = some w := by
  have hhalf : (s.d[k / 2]?.map fun v => if k % 2 = 0 then v.extractLsb' 0 32 else v.extractLsb' 32 32) = half s k := by
    obtain hk | hk := Nat.mod_two_eq_zero_or_one k <;> simp [half, hk]
  rw [State.readS, hhalf]
  simp [and_assoc]

theorem dword_eq_of_halves {x y : DWord} (hlow : x.extractLsb' 0 32 = y.extractLsb' 0 32)
    (hhigh : x.extractLsb' 32 32 = y.extractLsb' 32 32) : x = y := by
  have join (z : DWord) : (z.extractLsb' 32 32 ++ z.extractLsb' 0 32 : DWord) = z :=
    (BitVec.extractLsb'_append_extractLsb'_eq_extractLsb' (show 32 = 0 + 32 from rfl)).trans BitVec.extractLsb'_eq_self
  rw [← join x, ← join y, hlow, hhigh]

/-- A file whose halves are all as before is the file as before. -/
theorem file_eq_of_sameHalf (hs : ∀ h, SameHalf s t h) : t.d = s.d ∧ t.unknownS = s.unknownS := by
  refine ⟨Vector.ext fun k hk => ?_, Vector.ext fun k hk => ?_⟩
  · obtain ⟨hlow, -⟩ := hs (2 * k)
    obtain ⟨hhigh, -⟩ := hs (2 * k + 1)
    have hdiv : (2 * k + 1) / 2 = k := by omega
    have hmod : (2 * k + 1) % 2 = 1 := by omega
    exact dword_eq_of_halves (by simpa [half, hk] using hlow) (by simpa [half, hk, hdiv, hmod] using hhigh)
  · simpa [hk] using (hs k).2

/-! ## The loaded list (R132) -/

/-- Two words combined are the eight bytes as one number (R54). -/
theorem combineWords_wordOf (s : State) (a : Nat) : combineWords s.e (wordOf s a) (wordOf s (a + 4)) = dwordOf s a := by
  have h1 : a + 4 + 1 = a + 5 := rfl
  have h2 : a + 4 + 2 = a + 6 := rfl
  have h3 : a + 4 + 3 = a + 7 := rfl
  apply BitVec.eq_of_toNat_eq
  cases he : s.e <;>
    simp only [combineWords, wordOf, dwordOf, he, if_true, if_false, Bool.false_eq_true, toNat_append_add, h1, h2, h3] <;>
    omega

/-- Each register of the list holds its bytes. -/
structure HoldsList (f : Form) (s t : State) : Prop where
  doubles : f.double = true → ∀ r < f.count, t.readD (f.first + r) = some (dwordOf s ((startOf f s).toNat + 8 * r))
  singles : f.double = false → ∀ r < f.count, t.readS (f.first + r) = some (wordOf s ((startOf f s).toNat + 4 * r))

/-- The loop of a transfer that is done loads its list. -/
theorem loadList_of_transfers (hf : loadForm i = some f) (hr : Transfers f s) :
    ∃ t, loadList f.operands (startOf f s) (s.afterReadR f.n) = .ok t ∧ HoldsList f s t := by
  obtain ⟨-, -, hfit⟩ := hr.legal
  cases hd : f.double with
  | true =>
    have hwords : f.words = 2 * f.count := by simp [Form.words, hd]
    obtain ⟨t, hl, -, hin, -⟩ := loadDoubles_ok hfit fun k hk => memRead_word hf hr (hwords ▸ hk)
    refine ⟨t, by simpa [loadList, Form.operands, hd] using hl, fun _ r hr => ?_, fun hs => ?_⟩
    · rw [hin r hr, State.afterReadR_e, ← combineWords_wordOf]
      congr 3 <;> omega
    · cases hd.symm.trans hs
  | false =>
    have hwords : f.words = f.count := by simp [Form.words, hd]
    obtain ⟨t, hl, -, hin, -⟩ := loadSingles_ok hfit fun k hk => memRead_word hf hr (hwords ▸ hk)
    refine ⟨t, by simpa [loadList, Form.operands, hd] using hl, fun hs => ?_, fun _ r hr => hin r hr⟩
    cases hd.symm.trans hs

theorem n_le_of_loadForm (hf : loadForm i = some f) : f.n ≤ 15 := by
  obtain ⟨_, _, _, _, Rn, _, _, ⟨rfl, -⟩ | rfl⟩ := form_of_loadForm hf <;> exact Nat.le_of_lt_succ Rn.isLt

/-- A base that is written back is one of R[0] to R[14] (R136). -/
theorem n_lt_of_wback (hf : loadForm i = some f) (hb : BaseOk f s) (hw : f.wback = true) : f.n < 15 := by
  refine lt_of_le_of_ne (n_le_of_loadForm hf) fun hn => ?_
  obtain ⟨hno, -⟩ := hb hn
  cases hw.symm.trans hno

/-- The writeback line of R132, where it is asked for and where it is not. -/
theorem writeBack_of_wback (hw : f.wback = true) :
    writeBack f.operands (s.valueR f.n) t = t.writeR f.n (newBaseOf f s) := by
  rw [writeBack, show f.operands.wback = true from hw, valueR_eq_baseOf]
  rfl

theorem writeBack_of_not_wback {base : Word} (hw : f.wback = false) : writeBack f.operands base t = t := by
  rw [writeBack, show f.operands.wback = false from hw]
  rfl

/-- The draw that reading the base uses up (U8). -/
theorem draws_afterReadR (s : State) (n : Nat) :
    (s.afterReadR n).draws = s.draws + if n ≠ 15 ∧ s.unknownR[n]? = some true then 1 else 0 := by
  rw [State.afterReadR_draws, apply_ite (s.draws + ·)]
  simp [State.isUnknownR, Option.getD_eq_iff]

theorem draws_writeBack (o : Operands) (base : Word) (s : State) : (writeBack o base s).draws = s.draws := by
  unfold writeBack; split <;> rfl

/-- The writeback and the advance after a loop that loaded the list leave what R132 and R42 say. -/
theorem loaded_of_loadList (hf : loadForm i = some f) (hb : BaseOk f s)
    (hl : loadList f.operands (startOf f s) (s.afterReadR f.n) = .ok t) (ht : HoldsList f s t) :
    Loaded f s (advanced f.src (writeBack f.operands (s.valueR f.n) t)) := by
  obtain ⟨hfixed, hpc, hit⟩ := sameControl_writeBack_of_loadList (base := s.valueR f.n) hl
  obtain ⟨hhalves, hregs⟩ := sameRegs_writeBack_of_loadList (base := s.valueR f.n) hl
  exact {
    doubles := fun hd r hr => by rw [readD_advanced_writeBack, ht.doubles hd r hr]
    singles := fun hd r hr => by rw [readS_advanced_writeBack, ht.singles hd r hr]
    halves := hhalves
    base := fun hw => by
      rw [writeBack_of_wback hw]
      simp [advanced, n_lt_of_wback hf hb hw]
    regs := hregs
    pc := by rw [advanced, hpc]
    itstate := by rw [advanced, hit]
    fixed := ⟨hfixed.flags, hfixed.iset, hfixed.e, hfixed.mem, hfixed.sys, hfixed.launch⟩
    draws := by
      rw [advanced, draws_writeBack, ← draws_afterReadR, loadList_ok_same hl] }

/-- An instruction that runs normally completes, its list loaded. -/
theorem exec_loads (hf : loadForm i = some f) (hr : RunsNormally f s) : ∃ t, exec i s = .next t ∧ Loaded f s t := by
  obtain ⟨t, hl, ht⟩ := loadList_of_transfers hf hr.toTransfers
  exact ⟨_, exec_of_loadList hf hr hl, loaded_of_loadList hf hr.base hl ht⟩

/-! ## No registers (R137) -/

theorem exec_of_noRegisters (hf : loadForm i = some f) (hp : Passes f.src s) (hb : BaseOk f s) (h0 : f.count = 0) :
    exec i s = noRegisters f.src f.operands s := by
  rw [exec_of_loadForm hf, vldm, conditional_of_passes hp, passedVldm_of_noRegisters _ hb h0]

theorem loadList_of_noRegisters (h0 : f.count = 0) : loadList f.operands a s = .ok s := by
  unfold loadList
  rw [show f.operands.regs = 0 from h0]
  split <;> rfl

theorem bytes_of_noRegisters (hf : loadForm i = some f) (hwf : i.wellFormed = true) (h0 : f.count = 0) : f.bytes = 0 := by
  rw [bytes_of_wellFormed hf hwf]
  simp [Form.words, h0]

/-- An offset of 0 bytes writes the base back with its own value. -/
theorem newBaseOf_of_noBytes (h0 : f.bytes = 0) : newBaseOf f s = baseOf s f.n := by
  simp [newBaseOf, h0]

/-- A transfer of no registers completes and loads nothing. -/
theorem transfer_of_noRegisters (hf : loadForm i = some f) (hwf : i.wellFormed = true) (hb : BaseOk f s)
    (h0 : f.count = 0) (hpc : s.pc.toNat + 4 < 2 ^ 32) :
    ∃ t, transfer f.src f.operands s = .next t ∧ Loaded f s t := by
  have hnw : NoWrap f s := by
    have := (startOf f s).isLt
    rw [NoWrap, bytes_of_noRegisters hf hwf h0]; omega
  have hl := loadList_of_noRegisters (a := startOf f s) (s := s.afterReadR f.n) h0
  have hsame := sameControl_writeBack_of_loadList (o := f.operands) (base := s.valueR f.n) hl
  refine ⟨_, ?_, loaded_of_loadList hf hb hl ⟨fun _ r hr => by omega, fun _ r hr => by omega⟩⟩
  rw [transfer, start_eq_startOf, wrapsAround_eq_false hf hnw, if_neg Bool.false_ne_true,
    show f.operands.n = f.n from rfl, hl]
  exact complete_eq_advanced (hsame.pc ▸ hpc)

/-! ## Too many registers (R138) -/

theorem exec_of_not_fits (hf : loadForm i = some f) (hp : Passes f.src s) (hb : BaseOk f s) (hfit : ¬ Fits f)
    (h0 : f.count ≠ 0) : exec i s = tooManyRegisters f.src f.operands s := by
  rw [exec_of_loadForm hf, vldm, conditional_of_passes hp, passedVldm_of_not_fits _ hb h0 hfit]

theorem getElem?_markSubset (subset : BitVec 32) (k h : Nat) (v : Vector Bool 64) (hh : h < 64) :
    (markSubset subset k v)[h]?.getD false = ((decide (h / 2 < k) && subset.getLsbD (h / 2)) || v[h]?.getD false) := by
  induction k generalizing v with
  | zero => simp [markSubset]
  | succ k ih =>
    have hpair : 2 * k ≤ h ∧ h < 2 * k + 2 ↔ h / 2 = k := by omega
    have hmark : (if subset.getLsbD k then markHalves 2 (2 * k) v else v)[h]?.getD false =
        ((decide (h / 2 = k) && subset.getLsbD k) || v[h]?.getD false) := by
      split
      · next hb =>
        rw [getElem?_markHalves, ← Bool.decide_and, decide_eq_decide.mpr hpair, decide_eq_true hh, hb]
      · next hb => rw [Bool.eq_false_of_not_eq_true hb, Bool.and_false, Bool.false_or]
    rw [markSubset, ih, hmark]
    by_cases hk : h / 2 = k
    · simp [hk]
    · have hlt : h / 2 < k ↔ h / 2 < k + 1 := by omega
      simp [hk, hlt]

/-- The D registers that the third behaviour of R138 makes unknown. -/
def forgets (s : State) (k : Nat) : Bool :=
  decide (k = (Config.unknownOne s.draws).val) || (Config.unknownSubset s.draws).getLsbD k

theorem isUnknownHalf_forgetSome (hh : h < 64) :
    s.forgetSome.isUnknownHalf h = (forgets s (h / 2) || s.isUnknownHalf h) := by
  have hone : (2 * (Config.unknownOne s.draws).val ≤ h ∧ h < 2 * (Config.unknownOne s.draws).val + 2) ↔
      h / 2 = (Config.unknownOne s.draws).val := by omega
  have hlt : h / 2 < 32 := by omega
  rw [State.isUnknownHalf, State.forgetSome_unknownS, getElem?_markHalves, getElem?_markSubset _ _ _ _ hh,
    ← Bool.decide_and, decide_eq_decide.mpr hone, forgets, State.isUnknownHalf, decide_eq_true hh, decide_eq_true hlt,
    Bool.and_true, Bool.true_and, Bool.or_assoc]

theorem readD_forgetSome {k : Nat} (hk : k < 32) :
    s.forgetSome.readD k = if forgets s k then none else s.readD k := by
  have hdiv : (2 * k + 1) / 2 = k := by omega
  rw [State.readD, isUnknownHalf_forgetSome (by omega), isUnknownHalf_forgetSome (by omega), hdiv,
    Nat.mul_div_cancel_left k Nat.two_pos, State.forgetSome_d]
  cases forgets s k <;> simp [State.readD]

theorem readD_forgetUnder (s : State) (o : Operands) (k : Nat) : (s.forgetUnder o).readD k = s.forgetSome.readD k := by
  unfold State.forgetUnder; split <;> rfl

theorem d_forgetUnder (s : State) (o : Operands) : (s.forgetUnder o).d = s.d := by
  unfold State.forgetUnder; split <;> rfl

/-- "One or more": at least one D register becomes unknown (R138 (c)). -/
theorem exists_readD_forgetUnder_eq_none (s : State) (o : Operands) : ∃ k < 32, (s.forgetUnder o).readD k = none :=
  ⟨Config.unknownOne s.draws, Fin.isLt _, by
    rw [readD_forgetUnder, readD_forgetSome (Fin.isLt _)]
    simp [forgets]⟩

/-- A D register that does not become unknown is as before. -/
theorem readD_forgetUnder_or (s : State) (o : Operands) {k : Nat} (hk : k < 32) :
    (s.forgetUnder o).readD k = none ∨ (s.forgetUnder o).readD k = s.readD k := by
  rw [readD_forgetUnder, readD_forgetSome hk]
  split
  · exact .inl rfl
  · exact .inr rfl

theorem sameR_forgetUnder {m : Nat} (hm : m ≠ f.n ∨ f.wback = false) : SameR s (s.forgetUnder f.operands) m := by
  cases hw : f.wback with
  | true =>
    have hne : f.n ≠ m := fun he => hm.elim (fun h => h he.symm) (fun h => Bool.false_ne_true (h.symm.trans hw))
    simp [SameR, State.forgetUnder, Form.operands, hw, hne]
  | false => simp [SameR, State.forgetUnder, Form.operands, hw]

theorem unknownR_forgetUnder (hn : f.n < 15) (hw : f.wback = true) :
    (s.forgetUnder f.operands).unknownR[f.n]? = some true := by
  simp [State.forgetUnder, Form.operands, hw, hn]

/-! ## Data Aborts (R141, R177) -/

theorem add_ofNat_succ_word (a : Word) (k : Nat) :
    a + BitVec.ofNat 32 (4 * (k + 1)) = a + 4 + BitVec.ofNat 32 (4 * k) := by
  rw [Nat.mul_succ, Nat.add_comm, ← BitVec.ofNat_add_ofNat, BitVec.add_assoc]
  rfl

/-- Every word of an S loop that succeeds reads. -/
theorem memRead_of_loadSingles {regs k n : Nat} (hl : loadSingles regs n a s = .ok t) (hk : k < regs) :
    ∃ w, s.memRead (a + BitVec.ofNat 32 (4 * k)) = .ok w := by
  induction regs generalizing n a s k with
  | zero => omega
  | succ regs ih =>
    unfold loadSingles at hl
    split at hl
    · cases hl
    · next w hw =>
      cases k with
      | zero => exact ⟨w, by simpa using hw⟩
      | succ k =>
        obtain ⟨v, hv⟩ := ih hl (k := k) (by omega)
        exact ⟨v, by rwa [State.memRead_writeS, ← add_ofNat_succ_word] at hv⟩

/-- Every word of a D loop that succeeds reads. -/
theorem memRead_of_loadDoubles {regs k n : Nat} (hl : loadDoubles regs n a s = .ok t) (hk : k < 2 * regs) :
    ∃ w, s.memRead (a + BitVec.ofNat 32 (4 * k)) = .ok w := by
  induction regs generalizing n a s k with
  | zero => omega
  | succ regs ih =>
    unfold loadDoubles at hl
    split at hl
    · cases hl
    · next w1 hw1 =>
      split at hl
      · cases hl
      · next w2 hw2 =>
        match k with
        | 0 => exact ⟨w1, by simpa using hw1⟩
        | 1 => exact ⟨w2, hw2⟩
        | k + 2 =>
          obtain ⟨v, hv⟩ := ih hl (k := k) (by omega)
          rw [State.memRead_writeD, show a + 8 = a + 4 + 4 from (BitVec.add_assoc a 4 4).symm, ← add_ofNat_succ_word,
            ← add_ofNat_succ_word] at hv
          exact ⟨v, hv⟩

/-- Every word of a loop that succeeds reads. -/
theorem memRead_of_loadList {k : Nat} (hl : loadList f.operands a s = .ok t) (hk : k < f.words) :
    ∃ w, s.memRead (a + BitVec.ofNat 32 (4 * k)) = .ok w := by
  cases hd : f.double with
  | true =>
    simp only [loadList, Form.operands, hd] at hl
    exact memRead_of_loadDoubles hl (by simpa [Form.words, hd] using hk)
  | false =>
    simp only [loadList, Form.operands, hd] at hl
    exact memRead_of_loadSingles hl (by simpa [Form.words, hd] using hk)

/-- A word that reads is aligned and mapped whole. -/
theorem mapped_of_memRead {w : Word} (hr : s.memRead a = .ok w) :
    a.toNat % 4 = 0 ∧ ∀ k < 4, mappedAt s (a.toNat + k) = true := by
  have ha : a.toNat % 4 = 0 := by
    by_contra ha
    cases (memRead_of_misaligned ha).symm.trans hr
  refine ⟨ha, fun k hk => ?_⟩
  by_contra hm
  cases (memRead_of_unmapped ha hk (Bool.eq_false_of_not_eq_true hm)).symm.trans hr

/-- An aligned word aborts with Access, at a byte that is not mapped. -/
theorem unmapped_of_memRead_abort {x : Word} {kind : AbortKind} (ha : a.toNat % 4 = 0)
    (hr : s.memRead a = .abort kind x) : kind = .access ∧ ∃ b < 4, mappedAt s (a.toNat + b) = false := by
  obtain ⟨b, hb, hm⟩ : ∃ b < 4, mappedAt s (a.toNat + b) = false := by
    by_contra hall
    have hmap : ∀ b < 4, mappedAt s (a.toNat + b) = true := fun b hb =>
      Bool.eq_true_of_not_eq_false fun hm => hall ⟨b, hb, hm⟩
    cases (memRead_of_mapped ha hmap).symm.trans hr
  rw [memRead_of_unmapped ha hb hm, ReadResult.abort.injEq] at hr
  exact ⟨hr.1.symm, b, hb, hm⟩

/-- A misaligned start aborts the loop at once (R177). -/
theorem loadList_of_misaligned (h1 : 1 ≤ f.count) (ha : a.toNat % 4 ≠ 0) :
    loadList f.operands a s = .abort .alignment a := by
  obtain ⟨k, hk⟩ := Nat.exists_eq_add_of_le' h1
  have hregs : f.operands.regs = k + 1 := hk
  unfold loadList
  rw [hregs]
  split
  · simp only [loadSingles, memRead_of_misaligned ha]
  · simp only [loadDoubles, memRead_of_misaligned ha]

/-- A loop whose bytes are not all mapped aborts with Access at a word with an unmapped byte. -/
theorem loadList_of_unmapped (hf : loadForm i = some f) (hwf : i.wellFormed = true) (hw : NoWrap f s)
    (ha : (startOf f s).toNat % 4 = 0) (hm : ¬ AllMapped f s) :
    ∃ x k, loadList f.operands (startOf f s) (s.afterReadR f.n) = .abort .access x ∧
      4 * k < f.bytes ∧ x.toNat = (startOf f s).toNat + 4 * k ∧ ∃ b < 4, mappedAt s (x.toNat + b) = false := by
  have hbytes := bytes_of_wellFormed hf hwf
  cases hl : loadList f.operands (startOf f s) (s.afterReadR f.n) with
  | ok t =>
    refine absurd (fun k hk => ?_) hm
    obtain ⟨w, hread⟩ := memRead_of_loadList hl (k := k / 4) (by omega)
    rw [State.memRead_afterReadR] at hread
    obtain ⟨-, hmap⟩ := mapped_of_memRead hread
    rw [toNat_add_ofNat hw (by omega)] at hmap
    have hbyte := hmap (k % 4) (Nat.mod_lt _ (by decide))
    rwa [Nat.add_assoc, Nat.div_add_mod] at hbyte
  | abort kind x =>
    obtain ⟨k, hk, rfl, hread⟩ := loadList_abort hl
    rw [State.memRead_afterReadR] at hread
    have hx := toNat_add_ofNat hw (k := k) (by omega)
    obtain ⟨rfl, hbyte⟩ := unmapped_of_memRead_abort (by omega) hread
    exact ⟨_, k, rfl, by omega, hx, hbyte⟩

/-- The state a Data Abort of the transfer carries (R141). -/
def abortState (f : Form) (s : State) : State := (s.afterReadR f.n).forgetList f.operands

/-- A transfer whose loop aborts ends in the Data Abort. -/
theorem exec_of_loadList_abort {x : Word} {kind : AbortKind} (hf : loadForm i = some f) (hp : Passes f.src s)
    (hb : BaseOk f s) (hleg : Legal f) (hacc : s.fpAccess = .enabled) (hw : NoWrap f s)
    (hl : loadList f.operands (startOf f s) (s.afterReadR f.n) = .abort kind x) :
    exec i s = .fault (.dataAbort kind x (abortState f s)) := by
  rw [exec_eq_transfer hf hp hb hleg hacc, transfer, start_eq_startOf, wrapsAround_eq_false hf hw,
    if_neg Bool.false_ne_true, show f.operands.n = f.n from rfl, hl]
  rfl

/-- The marks of a list that fits are set, and no others. -/
theorem isUnknownHalf_abortState (hfit : Fits f) :
    (abortState f s).isUnknownHalf h = true ↔ inList f h ∨ s.isUnknownHalf h = true := by
  obtain ⟨-, hlast⟩ := hfit
  have hread : (s.afterReadR f.n).isUnknownHalf h = s.isUnknownHalf h := by simp [State.isUnknownHalf]
  rw [abortState, State.isUnknownHalf_forgetList, hread, Bool.or_eq_true]
  refine or_congr_left ?_
  cases hd : f.double <;> simp [Form.operands, inList, hd] <;> omega

theorem sameHalf_abortState (hfit : Fits f) (hout : ¬ inList f h) : SameHalf s (abortState f s) h := by
  refine ⟨by simp [half, abortState], unknownS_congr ?_⟩
  rw [Bool.eq_iff_iff, isUnknownHalf_abortState hfit, or_iff_right hout]

theorem sameControl_abortState (f : Form) (s : State) : SameControl s (abortState f s) :=
  ⟨⟨by simp [abortState], by simp [abortState], by simp [abortState], by simp [abortState], by simp [abortState],
    by simp [abortState]⟩, by simp [abortState], by simp [abortState]⟩

/-! ## The same list from the same start (R143) -/

/-- The form with another addressing form (R92) and the same list, base register and offset. -/
def Form.addressed (f : Form) (add wback : Bool) : Form := { f with add := add, wback := wback }

/-- A list that runs normally does so again under the same control, whatever addressing form leads to the same start. -/
theorem runsNormally_addressed {add wback : Bool} (hr : RunsNormally f s) (hfix : s.SameFixed t)
    (hit : t.itstate = s.itstate) (hn : f.n ≠ 15) (hstart : startOf (f.addressed add wback) t = startOf f s)
    (hpc : t.pc.toNat + 4 < 2 ^ 32) : RunsNormally (f.addressed add wback) t := by
  obtain ⟨⟨hp, -, hl, hacc, hal, hw, hm⟩, -⟩ := hr
  refine ⟨⟨?_, fun h => absurd h hn, hl, ?_, hstart ▸ hal, ?_, fun k hk => ?_⟩, hpc⟩
  · show Passes f.src t
    unfold Passes at hp ⊢
    rwa [hfix.flags, hfix.launch, hit]
  · rwa [State.fpAccess, hfix.launch, hfix.sys]
  · rwa [NoWrap, hstart]
  · rw [hstart, mappedAt, hfix.mem]
    exact hm k hk

theorem baseOf_of_known {n : Nat} {v : Word} (hn : n ≠ 15) (hr : s.r[n]? = some v) (hk : s.unknownR[n]? = some false) :
    baseOf s n = v := by
  simp [baseOf, hn, hr, hk]

/-- The loops of R132 neither read nor write a general-purpose register. -/
theorem loadSingles_writeR {regs k n : Nat} {v : Word} (hl : loadSingles regs k a s = .ok t) :
    loadSingles regs k a (s.writeR n v) = .ok (t.writeR n v) := by
  induction regs generalizing k a s with
  | zero => cases hl; rfl
  | succ regs ih =>
    have hmem (a : Word) : (s.writeR n v).memRead a = s.memRead a := State.memRead_congr rfl rfl a
    unfold loadSingles at hl ⊢
    rw [hmem]
    split at hl
    · cases hl
    · exact ih hl

theorem loadDoubles_writeR {regs k n : Nat} {v : Word} (hl : loadDoubles regs k a s = .ok t) :
    loadDoubles regs k a (s.writeR n v) = .ok (t.writeR n v) := by
  induction regs generalizing k a s with
  | zero => cases hl; rfl
  | succ regs ih =>
    have hmem (a : Word) : (s.writeR n v).memRead a = s.memRead a := State.memRead_congr rfl rfl a
    unfold loadDoubles at hl ⊢
    rw [hmem, hmem]
    split at hl
    · cases hl
    · split at hl
      · cases hl
      · exact ih hl

theorem loadList_writeR {o : Operands} {n : Nat} {v : Word} (hl : loadList o a s = .ok t) :
    loadList o a (s.writeR n v) = .ok (t.writeR n v) := by
  cases hs : o.singleRegs with
  | true =>
    simp only [loadList, hs, if_true] at hl ⊢
    exact loadSingles_writeR hl
  | false =>
    simp only [loadList, hs, Bool.false_eq_true, if_false] at hl ⊢
    exact loadDoubles_writeR hl

/-- R143 (c): decrement before, with writeback, is increment after from the lower base. -/
theorem exec_decrement_eq_exec_increment (hi : loadForm i = some f) (hj : loadForm j = some (f.addressed true false))
    (hadd : f.add = false) (hwb : f.wback = true) (hr : RunsNormally f s) (hk : s.unknownR[f.n]? = some false) :
    ∃ t, exec i s = .next t ∧ exec j (s.writeR f.n (newBaseOf f s)) = .next t := by
  have hn := n_lt_of_wback hi hr.base hwb
  have hstart : startOf f s = newBaseOf f s := by simp [startOf, newBaseOf, hadd]
  have hbase : baseOf (s.writeR f.n (newBaseOf f s)) f.n = newBaseOf f s :=
    baseOf_of_known hn.ne (by simp [hn]) (by simp [hn])
  have hknown : (s.writeR f.n (newBaseOf f s)).isUnknownR f.n = false := by simp [State.isUnknownR, hn]
  have hrun : RunsNormally (f.addressed true false) (s.writeR f.n (newBaseOf f s)) :=
    runsNormally_addressed hr ⟨rfl, rfl, rfl, rfl, rfl, rfl⟩ rfl hn.ne (hbase.trans hstart.symm) hr.pc
  obtain ⟨t, hl, -⟩ := loadList_of_transfers hi hr.toTransfers
  have hread : s.afterReadR f.n = s := State.afterReadR_of_known s f.n (by simp [State.isUnknownR, hk])
  have hl' : loadList (f.addressed true false).operands (startOf (f.addressed true false) (s.writeR f.n (newBaseOf f s)))
      ((s.writeR f.n (newBaseOf f s)).afterReadR f.n) = .ok (t.writeR f.n (newBaseOf f s)) := by
    rw [State.afterReadR_of_known _ _ hknown]
    rw [hread] at hl
    exact (congrArg (loadList f.operands · _) (hbase.trans hstart.symm)).trans (loadList_writeR hl)
  refine ⟨_, exec_of_loadList hi hr hl, (exec_of_loadList hj hrun hl').trans ?_⟩
  rw [writeBack_of_wback hwb, writeBack_of_not_wback rfl]
  rfl

/-- What half `h` of the list is loaded with. -/
def listedHalf (f : Form) (s : State) (h : Nat) : Word :=
  if f.double then (dwordOf s ((startOf f s).toNat + 8 * (h / 2 - f.first))).extractLsb' (32 * (h % 2)) 32
  else wordOf s ((startOf f s).toNat + 4 * (h - f.first))

/-- A loaded list, half by half. -/
theorem half_of_loaded (hfit : Fits f) (hl : Loaded f s t) (hin : inList f h) :
    half t h = some (listedHalf f s h) ∧ t.unknownS[h]? = some false := by
  obtain ⟨-, hlast⟩ := hfit
  cases hd : f.double with
  | true =>
    have hlist : 2 * f.first ≤ h ∧ h < 2 * (f.first + f.count) := by simpa [inList, hd] using hin
    have hreg := hl.doubles hd (h / 2 - f.first) (by omega)
    rw [show f.first + (h / 2 - f.first) = h / 2 by omega] at hreg
    obtain ⟨hlow, hhigh, hval⟩ := readD_eq_some_iff.mp hreg
    refine ⟨by simp [half, hval, listedHalf, hd], (isUnknownHalf_eq_false_iff (by omega)).mp ?_⟩
    obtain hh | hh : h = 2 * (h / 2) ∨ h = 2 * (h / 2) + 1 := by omega
    · rwa [← hh] at hlow
    · rwa [← hh] at hhigh
  | false =>
    have hlist : f.first ≤ h ∧ h < f.first + f.count := by simpa [inList, hd] using hin
    have hreg := hl.singles hd (h - f.first) (by omega)
    rw [show f.first + (h - f.first) = h by omega] at hreg
    obtain ⟨hmark, -, hval⟩ := readS_eq_some_iff.mp hreg
    exact ⟨by simp [hval, listedHalf, hd], (isUnknownHalf_eq_false_iff (by omega)).mp hmark⟩

/-- Loading a list again from the same start leaves the file (R143 (d)). -/
theorem sameHalf_of_loaded_twice {add wback : Bool} (hfit : Fits f) (ht : Loaded f s t)
    (hu : Loaded (f.addressed add wback) t u) (hstart : startOf (f.addressed add wback) t = startOf f s) (h : Nat) :
    SameHalf t u h := by
  by_cases hin : inList f h
  · have hsame : listedHalf (f.addressed add wback) t h = listedHalf f s h := by
      simp only [listedHalf, dwordOf, wordOf, byteAt, hstart, ht.fixed.mem, ht.fixed.e]
      rfl
    obtain ⟨hval, hmark⟩ := half_of_loaded hfit ht hin
    obtain ⟨hval', hmark'⟩ := half_of_loaded (f := f.addressed add wback) hfit hu hin
    exact ⟨by rw [hval', hval, hsame], by rw [hmark', hmark]⟩
  · exact hu.halves h hin

/-- R143 (d): increment after, then decrement before: both complete, and the second starts where the first did. -/
theorem exec_increment_then_decrement {c : BitVec 4} (hi : loadForm i = some f)
    (hj : loadForm j = some (f.addressed false true)) (hsrc : f.src = .field c) (hadd : f.add = true) (hwb : f.wback = true)
    (hr : RunsNormally f s) (hpc : s.pc.toNat + 8 < 2 ^ 32) :
    ∃ t u, exec i s = .next t ∧ exec j t = .next u ∧ Loaded f s t ∧ Loaded (f.addressed false true) t u ∧
      startOf (f.addressed false true) t = startOf f s := by
  obtain ⟨t, ht, hload⟩ := exec_loads hi hr
  have hn := n_lt_of_wback hi hr.base hwb
  obtain ⟨hbase, hknown⟩ := hload.base hwb
  have hstart : startOf (f.addressed false true) t = startOf f s := by
    have hsub : startOf (f.addressed false true) t = baseOf t f.n - BitVec.ofNat 32 f.bytes := rfl
    rw [hsub, baseOf_of_known hn.ne hbase hknown, newBaseOf, startOf, hadd]
    exact BitVec.add_sub_cancel _ _
  have hit : t.itstate = s.itstate := by rw [hload.itstate, hsrc]; rfl
  have hpc' : t.pc.toNat + 4 < 2 ^ 32 := by rw [hload.pc, BitVec.toNat_add]; simp; omega
  obtain ⟨u, hu, hload'⟩ := exec_loads hj (runsNormally_addressed hr hload.fixed hit hn.ne hstart hpc')
  exact ⟨t, u, ht, hu, hload, hload', hstart⟩

theorem SameR.trans {m : Nat} (h₁ : SameR s t m) (h₂ : SameR t u m) : SameR s u m :=
  ⟨h₂.1.trans h₁.1, h₂.2.trans h₁.2⟩

end Sys2Proof.Spec
end

section
/-! SUPPORT. The statements of 40_vldm.md, settled. -/

namespace Sys2Proof.Proofs

open Sys2Proof.Machine Sys2Proof.Spec

/-- Settles O18: every word of the list reads, and the loop, the writeback and the advance leave what R132 says. -/
theorem dListsLoadAndComplete : Obligations.DListsLoadAndComplete :=
  fun _ _ _ hf _ hr => exec_loads hf hr

/-- Settles O19, as the D lists. -/
theorem sListsLoadAndComplete : Obligations.SListsLoadAndComplete :=
  fun _ _ _ hf _ hr => exec_loads hf hr

/-- Settles O20: the condition is tested first, and an A32 completion leaves itstate. -/
theorem failedConditionIsNopInA32 : Obligations.FailedConditionIsNopInA32 := by
  intro i s hi hfails hpc
  obtain ⟨c, hc⟩ := srcOf_of_a32 hi
  rw [exec_of_fails hfails, hc, complete_eq_advanced hpc]
  rfl

/-- Settles O23: the decoder builds an UNDEFINED row for these P U W alone, and such a row raises once its condition passes. -/
theorem undefinedRowsRaise : Obligations.UndefinedRowsRaise :=
  ⟨fun _ _ _ h => isUndefinedRow_iff_puw h, fun _ _ => exec_undefined_of_passes⟩

/-- Settles O24: the base is looked at right after the condition. -/
theorem pcAsBaseIsRefused : Obligations.PcAsBaseIsRefused := by
  intro i f s hf hp hn hbad
  rw [exec_of_loadForm hf, vldm, conditional_of_passes hp]
  exact if_pos ⟨hn, hbad⟩

/-- Settles O25: one case for each choice, and for NoLoad one for each answer of the access check. -/
theorem noRegistersBehaviours : Obligations.NoRegistersBehaviours := by
  intro i f s hwf hf hp hb h0
  rw [exec_of_noRegisters hf hp hb h0, noRegisters]
  refine ⟨fun hcu => ?_, fun hcu hpc => ?_, fun hcu => ?_⟩ <;> rw [hcu]
  · rfl
  · exact complete_eq_advanced hpc
  · simp only [checkedTransfer]
    refine ⟨fun hacc => ?_, fun hacc => ?_, fun hacc hpc => ?_⟩ <;> rw [hacc]
    · rfl
    · rfl
    · obtain ⟨t, ht, hload⟩ := transfer_of_noRegisters hf hwf hb h0 hpc
      exact ⟨t, ht, hload, newBaseOf_of_noBytes (bytes_of_noRegisters hf hwf h0)⟩

/-- Settles O26: one case for each choice; the third behaviour marks registers and moves nothing else. -/
theorem tooManyRegistersBehaviours : Obligations.TooManyRegistersBehaviours := by
  intro i f s hf hp hb hfit h0
  obtain ⟨hfixed, hpcSame, hitSame⟩ := sameControl_forgetUnder s f.operands
  rw [exec_of_not_fits hf hp hb hfit h0, tooManyRegisters]
  refine ⟨fun hcu => ?_, fun hcu hpc => ?_, fun hcu hpc => ?_, fun hcu => ?_, fun hcu => ?_, fun kind addr hcu => ?_⟩ <;>
    rw [hcu]
  · rfl
  · exact complete_eq_advanced hpc
  · refine ⟨_, complete_eq_advanced (hpcSame ▸ hpc), exists_readD_forgetUnder_eq_none s _,
      fun k hk => readD_forgetUnder_or s _ hk, d_forgetUnder s _, fun m hm => sameR_forgetUnder hm,
      fun hw => unknownR_forgetUnder (n_lt_of_wback hf hb hw) hw, ?_, ?_, ?_⟩
    · rw [advanced, hpcSame]
    · rw [advanced, hitSame]
    · exact ⟨hfixed.flags, hfixed.iset, hfixed.e, hfixed.mem, hfixed.sys, hfixed.launch⟩
  · rfl
  · rfl
  · exact ⟨_, rfl, hpcSame, hfixed, fun m hm => sameR_forgetUnder hm⟩

/-- Settles O29: a misaligned start stops the loop at its first word, an unmapped byte at an aligned word; either way the state
carried is the one before with the list marked. -/
theorem dataAbortState : Obligations.DataAbortState := by
  intro i f s hwf hf hp hb hleg hacc hw hbad
  obtain ⟨hcount, hfit⟩ := hleg
  have hfault {kind x} := exec_of_loadList_abort (kind := kind) (x := x) hf hp hb ⟨hcount, hfit⟩ hacc hw
  obtain ⟨hfixed, hpc, hit⟩ := sameControl_abortState f s
  have hframe : (abortState f s).pc = s.pc ∧ (abortState f s).itstate = s.itstate ∧ (abortState f s).r = s.r ∧
      (abortState f s).unknownR = s.unknownR ∧ s.SameFixed (abortState f s) ∧
      (∀ h, inList f h → (abortState f s).unknownS[h]? = some true) ∧
      ∀ h, ¬ inList f h → SameHalf s (abortState f s) h :=
    ⟨hpc, hit, by simp [abortState], by simp [abortState], hfixed,
      fun h hin => isUnknownHalf_eq_true_iff.mp ((isUnknownHalf_abortState hfit).mpr (.inl hin)),
      fun h hout => sameHalf_abortState hfit hout⟩
  by_cases ha : (startOf f s).toNat % 4 = 0
  · obtain ⟨x, k, hl, hk, hx, hbyte⟩ := loadList_of_unmapped hf hwf hw ha fun hm => hbad ⟨ha, hm⟩
    exact ⟨_, _, _, hfault hl, fun hne => absurd ha hne, fun _ => ⟨rfl, k, hk, hx, hbyte⟩, hframe⟩
  · have hl := loadList_of_misaligned (s := s.afterReadR f.n) hcount ha
    exact ⟨_, _, _, hfault hl, fun _ => ⟨rfl, rfl⟩, fun h0 => absurd h0 ha, hframe⟩

/-- Settles O33: what every row that answers a next state leaves; an UNDEFINED row has only completed. -/
theorem noRowWritesFlagsOrMemory : Obligations.NoRowWritesFlagsOrMemory := by
  intro i s t hexec
  obtain ⟨hfixed, -, hpc, -⟩ := exec_next_control hexec
  refine ⟨hfixed, hpc, fun a => by rw [hfixed.mem], fun hu => ?_⟩
  rw [exec_of_isUndefinedRow hu] at hexec
  exact (eq_advanced_of_complete (undefinedWord_next hexec)).2

/-- Settles O36: the lower base is the start of both, and the writeback is the write that the second state begins with. -/
theorem decrementBeforeIsIncrementFromLowerBase : Obligations.DecrementBeforeIsIncrementFromLowerBase := by
  intro c D Rn Vd imm8 s i j f hij hf hr hk
  obtain ⟨rfl, rfl⟩ | ⟨rfl, rfl⟩ | ⟨rfl, rfl⟩ | ⟨rfl, rfl⟩ := hij <;> cases hf <;>
    exact exec_decrement_eq_exec_increment rfl rfl rfl rfl hr hk

/-- Settles O37: the second instruction starts where the first did, loads the same list, and writes the first base back. -/
theorem incrementThenDecrementRestoresBase : Obligations.IncrementThenDecrementRestoresBase := by
  intro c D Rn Vd imm8 s i j f hij hi hr hpc
  obtain ⟨hj, hsrc, hadd, hwb, hn⟩ : loadForm j = some (f.addressed false true) ∧ f.src = .field c ∧ f.add = true ∧
      f.wback = true ∧ f.n = Rn.toNat := by
    obtain ⟨rfl, rfl⟩ | ⟨rfl, rfl⟩ := hij <;> cases hi <;> exact ⟨rfl, rfl, rfl, rfl, rfl⟩
  obtain ⟨t, u, ht, hu, hloadT, hloadU, hstart⟩ := exec_increment_then_decrement hi hj hsrc hadd hwb hr hpc
  obtain ⟨hd, hmarks⟩ := file_eq_of_sameHalf (sameHalf_of_loaded_twice hr.legal.2 hloadT hloadU hstart)
  obtain ⟨hbase, -⟩ := hloadU.base rfl
  refine ⟨t, u, ht, hu, hd, hmarks, ?_, fun m hm => ?_, ?_, sameFixed_trans hloadT.fixed hloadU.fixed⟩
  · have hback : newBaseOf (f.addressed false true) t = baseOf s f.n := by
      refine hstart.trans ?_
      rw [startOf, hadd]; rfl
    rw [← hn, ← hback]
    exact hbase
  · rw [← hn] at hm
    exact (hloadT.regs m (.inl hm)).trans (hloadU.regs m (.inl hm))
  · rw [hloadU.pc, hloadT.pc, BitVec.add_assoc]; rfl

end Sys2Proof.Proofs
end

section
/-! SUPPORT. Everything a row that ends in a fault can have raised, and with which state (R141, R174, R178); the outline of the
access check, test by test (R175). -/

namespace Sys2Proof.Spec

open Sys2Proof.Machine

variable {i : Instr} {f : Form} {s : State} {y : SysRegs} {src : CondSource} {o : Operands} {x : Fault}

/-! ## What a fault carries (R178) -/

/-- The faults a VLDM, VLDMDB or VPOP can end in: Undefined and HypTrap with the state before, the Data Abort of the transfer
with the list unknown (R141), and for a list that is too long the Data Abort that the third behaviour of R138 may pick. -/
inductive VldmFault (o : Operands) (s : State) : Fault → Prop where
  | undefined : VldmFault o s (.undefined s)
  | hypTrap : VldmFault o s (.hypTrap s)
  | transfer (kind : AbortKind) (addr : Word) : VldmFault o s (.dataAbort kind addr ((s.afterReadR o.n).forgetList o))
  | tooMany (kind : AbortKind) (addr : Word) (h : o.tooMany = true) : VldmFault o s (.dataAbort kind addr (s.forgetUnder o))

/-- Completion raises nothing. -/
theorem complete_ne_fault (src : CondSource) (s : State) (x : Fault) : complete src s ≠ .fault x := by
  unfold complete
  split <;> nofun

/-- The transfer raises a Data Abort and nothing else (R132, R141). -/
theorem transfer_fault (h : transfer src o s = .fault x) :
    ∃ kind addr, x = .dataAbort kind addr ((s.afterReadR o.n).forgetList o) := by
  unfold transfer at h
  split at h
  · cases h
  · split at h
    · cases h; exact ⟨_, _, rfl⟩
    · cases complete_ne_fault _ _ _ h

theorem checkedTransfer_fault (h : checkedTransfer src o s = .fault x) : VldmFault o s x := by
  unfold checkedTransfer at h
  split at h
  · cases h; exact .undefined
  · cases h; exact .hypTrap
  · obtain ⟨kind, addr, rfl⟩ := transfer_fault h
    exact .transfer kind addr

theorem noRegisters_fault (h : noRegisters src o s = .fault x) : VldmFault o s x := by
  unfold noRegisters at h
  split at h
  · cases h; exact .undefined
  · cases complete_ne_fault _ _ _ h
  · exact checkedTransfer_fault h

theorem tooManyRegisters_fault (hm : o.tooMany = true) (h : tooManyRegisters src o s = .fault x) : VldmFault o s x := by
  unfold tooManyRegisters at h
  split at h
  · cases h; exact .undefined
  · cases complete_ne_fault _ _ _ h
  · cases complete_ne_fault _ _ _ h
  · cases h; exact .undefined
  · cases h; exact .hypTrap
  · cases h; exact .tooMany _ _ hm

theorem passedVldm_fault (h : passedVldm src o s = .fault x) : VldmFault o s x := by
  unfold passedVldm at h
  split at h
  · cases h
  · split at h
    · exact noRegisters_fault h
    · split at h
      · next hm => exact tooManyRegisters_fault hm h
      · exact checkedTransfer_fault h

/-- Only an instruction whose condition passes raises (R134). -/
theorem conditional_fault {passed : Host.Outcome State Fault Refusal} (h : conditional src s passed = .fault x) :
    passed = .fault x := by
  unfold conditional at h
  split at h
  · cases h
  · split at h
    · exact h
    · cases complete_ne_fault _ _ _ h

theorem vldmFault_of_loadForm (hf : loadForm i = some f) (h : exec i s = .fault x) : VldmFault f.operands s x := by
  rw [exec_of_loadForm hf] at h
  exact passedVldm_fault (conditional_fault h)

/-- An UNDEFINED row raises Undefined and nothing else (R135). -/
theorem fault_of_isUndefinedRow (hu : isUndefinedRow i = true) (h : exec i s = .fault x) : x = .undefined s := by
  rw [exec_of_isUndefinedRow hu] at h
  cases conditional_fault h
  rfl

theorem exec_undefined_state {t : State} (h : exec i s = .fault (.undefined t)) : t = s := by
  obtain ⟨f, hf⟩ | hu := loadForm_or_isUndefinedRow i
  · cases vldmFault_of_loadForm hf h; rfl
  · cases fault_of_isUndefinedRow hu h; rfl

theorem exec_hypTrap_state {t : State} (h : exec i s = .fault (.hypTrap t)) : t = s := by
  obtain ⟨f, hf⟩ | hu := loadForm_or_isUndefinedRow i
  · cases vldmFault_of_loadForm hf h; rfl
  · cases fault_of_isUndefinedRow hu h

/-- A Data Abort of a list that fits is the transfer's. -/
theorem exec_dataAbort_state {kind : AbortKind} {addr : Word} {t : State} (hf : loadForm i = some f) (hfit : Fits f)
    (h : exec i s = .fault (.dataAbort kind addr t)) : t = abortState f s := by
  cases vldmFault_of_loadForm hf h with
  | transfer => rfl
  | tooMany _ _ hm => cases ((tooMany_eq_false_iff f).mpr hfit).symm.trans hm

/-! ## The access check of a legal list (R174) -/

/-- Past the condition and the encoding-specific tests an instruction is its checked transfer. -/
theorem exec_eq_checkedTransfer (hf : loadForm i = some f) (hp : Passes f.src s) (hb : BaseOk f s) (hl : Legal f) :
    exec i s = checkedTransfer f.src f.operands s := by
  rw [exec_of_loadForm hf, vldm, conditional_of_passes hp, passedVldm_of_legal _ hb hl]

/-! ## The outline (R175) -/

theorem fpAccess_of_outline (h : s.launch.fpAccess = .outline) : s.fpAccess = outlineAccess s.sys := by
  rw [State.fpAccess, h]

/-- NSACR can only turn `cp10` into 00. -/
theorem effectiveCp10_cases (y : SysRegs) : effectiveCp10 y = 0b00#2 ∨ effectiveCp10 y = y.cpacr.extractLsb' 20 2 := by
  unfold effectiveCp10
  split
  · exact .inl rfl
  · exact .inr rfl

theorem effectiveCp10_of_zero (h : y.cpacr.extractLsb' 20 2 = 0b00#2) : effectiveCp10 y = 0b00#2 :=
  (effectiveCp10_cases y).elim id (·.trans h)

theorem cp10Denies_of_zero (hm : y.mode ≠ .hyp) (h : effectiveCp10 y = 0b00#2) : cp10Denies y = true :=
  (cp10Denies_of_defined hm).1 h

/-- A CPACR.cp10 of 01 denies User mode: it is taken as itself, or as the 00 that denies every mode. -/
theorem cp10Denies_of_user (hm : y.mode = .user) (h : y.cpacr.extractLsb' 20 2 = 0b01#2) : cp10Denies y = true := by
  have hhyp : y.mode ≠ .hyp := by rw [hm]; nofun
  obtain ⟨hzero, hone, -⟩ := cp10Denies_of_defined hhyp
  obtain h00 | hown := effectiveCp10_cases y
  · exact hzero h00
  · rw [hone (hown.trans h), decide_eq_true hm]

/-- Where NSACR admits, a CPACR.cp10 of 11 admits every mode, and one of 01 every mode but User. -/
theorem cp10Denies_of_admitted (hm : y.mode ≠ .hyp) (hns : y.security = .nonSecure → y.nsacr.getLsbD 10 = true)
    (h : y.cpacr.extractLsb' 20 2 = 0b11#2 ∨ y.cpacr.extractLsb' 20 2 = 0b01#2 ∧ y.mode ≠ .user) :
    cp10Denies y = false := by
  obtain ⟨-, hone, hthree⟩ := cp10Denies_of_defined hm
  have hown := effectiveCp10_own hns
  obtain h11 | ⟨h01, huser⟩ := h
  · exact hthree (hown.trans h11)
  · rw [hone (hown.trans h01), decide_eq_false huser]

theorem trapsToHyp_eq_true (hs : y.security = .nonSecure ∨ y.mode = .hyp) (ht : y.hcptr.getLsbD 10 = true) :
    trapsToHyp y = true := by
  rw [trapsToHyp, ht, Bool.and_true, Bool.or_eq_true, decide_eq_true_eq, decide_eq_true_eq]
  exact hs

theorem trapsToHyp_eq_false (h : y.security = .secure ∧ y.mode ≠ .hyp ∨ y.hcptr.getLsbD 10 = false) :
    trapsToHyp y = false := by
  obtain ⟨hs, hm⟩ | ht := h
  · rw [trapsToHyp, hs, decide_eq_false hm]; rfl
  · rw [trapsToHyp, ht, Bool.and_false]

theorem outlineAccess_of_denied (h : cp10Denies y = true) : outlineAccess y = .undef := if_pos h

theorem outlineAccess_of_disabled (h : y.fpexc.getLsbD 30 = false) : outlineAccess y = .undef := by
  rw [outlineAccess, if_pos h, ite_self]

/-- Past the tests of cp10 and EN the trap decides. -/
theorem outlineAccess_of_admitted (hd : cp10Denies y = false) (he : y.fpexc.getLsbD 30 = true) :
    outlineAccess y = if trapsToHyp y then .hypTrap else .enabled := by
  simp [outlineAccess, hd, he]

theorem outlineAccess_ne_enabled (h : trapsToHyp y = true) : outlineAccess y ≠ .enabled := by
  obtain ⟨ha, -⟩ | ⟨ha, -⟩ | ⟨-, -, -, ht⟩ := outlineAccess_cases y
  · rw [ha]; nofun
  · rw [ha]; nofun
  · cases ht.symm.trans h

theorem outlineAccess_ne_hypTrap (h : trapsToHyp y = false) : outlineAccess y ≠ .hypTrap := by
  obtain ⟨ha, -⟩ | ⟨-, -, -, ht⟩ | ⟨ha, -⟩ := outlineAccess_cases y
  · rw [ha]; nofun
  · cases ht.symm.trans h
  · rw [ha]; nofun

end Sys2Proof.Spec
end

section
/-! SUPPORT. The statements of 60_exceptions.md, settled. -/

namespace Sys2Proof.Proofs

open Sys2Proof.Machine Sys2Proof.Spec

/-- Settles O27: a legal list comes to the access check before its transfer, which raises no more than a Data Abort; a failed
condition stops before the check. -/
theorem accessCheckOutcomes : Obligations.AccessCheckOutcomes := by
  intro i f s hf
  refine ⟨fun hp hb hl => ?_, fun hfails hpc => ?_⟩
  · rw [exec_eq_checkedTransfer hf hp hb hl, checkedTransfer]
    refine ⟨fun hacc => ?_, fun hacc => ?_, fun hacc t => ?_⟩ <;> rw [hacc]
    · rfl
    · rfl
    · constructor <;> intro hfault <;> obtain ⟨kind, addr, hx⟩ := transfer_fault hfault <;> cases hx
  · rw [← srcOf_of_loadForm hf] at hfails ⊢
    rw [exec_of_fails hfails, complete_eq_advanced hpc]

/-- Settles O34: an inversion of the fault for each kind; a Data Abort of a list that fits carries the transfer's abort state. -/
theorem faultsArePrecise : Obligations.FaultsArePrecise := by
  refine fun i s t => ⟨exec_undefined_state, exec_hypTrap_state, fun f kind addr hf hfit h => ?_⟩
  obtain rfl := exec_dataAbort_state hf hfit h
  obtain ⟨hfixed, hpc, -⟩ := sameControl_abortState f s
  exact ⟨hpc, by simp [abortState], by simp [abortState], hfixed,
    fun h hin => isUnknownHalf_eq_true_iff.mp ((isUnknownHalf_abortState hfit).mpr (.inl hin))⟩

/-- Settles O28: one law of the outline's tests for each clause; a reserved cp10 comes under the last two, which hold whatever
the test of cp10 answers. -/
theorem outlineOfTheAccessCheck : Obligations.OutlineOfTheAccessCheck := by
  intro s hlaunch
  rw [fpAccess_of_outline hlaunch]
  refine ⟨fun hm hs hn => ?_, fun hm h => ?_, fun hm h => ?_, outlineAccess_of_disabled, fun hadmit hen => ?_,
    fun hs ht => outlineAccess_ne_enabled (trapsToHyp_eq_true hs ht), fun h => outlineAccess_ne_hypTrap (trapsToHyp_eq_false h)⟩
  · exact outlineAccess_of_denied (cp10Denies_of_zero hm (effectiveCp10_denied hs hn))
  · exact outlineAccess_of_denied (cp10Denies_of_zero hm (effectiveCp10_of_zero h))
  · exact outlineAccess_of_denied (cp10Denies_of_user hm h)
  · have hd : cp10Denies s.sys = false := by
      by_cases hm : s.sys.mode = .hyp
      · exact cp10Denies_hyp hm
      · obtain ⟨hns, hcp⟩ := hadmit.resolve_left hm
        exact cp10Denies_of_admitted hm hns hcp
    rw [outlineAccess_of_admitted hd hen]
    exact ⟨fun hs ht => if_pos (trapsToHyp_eq_true hs ht), fun h => by rw [trapsToHyp_eq_false h]; rfl⟩

end Sys2Proof.Proofs
end

section
/-! SUPPORT. The step on a word that decodes, runs step by step (R203, R204, R205), and the text that the host places (logs 5
and 6). -/

namespace Sys2Proof.Spec

open Sys2Proof.Machine

variable {s t : State} {i : Instr}

/-! ## The step (R204) -/

theorem step_of_decode_ok {w : Word} (hf : Fetches s w) (h : decodeWord s.iset w = .ok i) : step s = exec i s := by
  simp only [step, fetch_word_iff.mpr hf, h]

/-- Every step moves on by one instruction of the text. -/
theorem step_next_advances (h : step s = .next t) :
    t.pc.toNat = s.pc.toNat + 4 ∧ s.remaining = t.remaining + 1 := by
  obtain ⟨w, i, ⟨-, -, k, hk, hget⟩, -, hexec⟩ := step_next h
  obtain ⟨hfixed, hlt, hpc, -⟩ := exec_next_control hexec
  have hpcNat : t.pc.toNat = s.pc.toNat + 4 := by
    rw [hpc, BitVec.toNat_add_of_lt hlt]
    rfl
  obtain ⟨hkN, -⟩ := List.getElem?_eq_some_iff.mp hget
  refine ⟨hpcNat, ?_⟩
  rw [State.remaining, State.remaining, hfixed.launch, hpcNat]
  omega

/-! ## Runs (R205) -/

theorem run_next_advances {k : Nat} (h : Host.Core.run Sys2Proof.core k s = .next t) :
    t.pc.toNat = s.pc.toNat + 4 * k ∧ s.remaining = t.remaining + k := by
  induction k generalizing s with
  | zero => cases h; exact ⟨rfl, rfl⟩
  | succ k ih =>
    obtain ⟨u, hstep, hrest⟩ := run_succ_next h
    obtain ⟨hpc, hrem⟩ := step_next_advances hstep
    obtain ⟨hpc', hrem'⟩ := ih hrest
    omega

/-- Every state of a run from a state that meets the invariant meets it. -/
theorem run_keeps_inv {k : Nat} (hs : s.Inv) (h : Host.Core.run Sys2Proof.core k s = .next t) : t.Inv := by
  induction k generalizing s with
  | zero => cases h; exact hs
  | succ k ih =>
    obtain ⟨u, hstep, hrest⟩ := run_succ_next h
    exact ih (Proofs.stepKeepsTheInvariant s u hs hstep) hrest

/-- In the text only its end leaves no instruction to run. -/
theorem remaining_eq_zero_iff_ended (h : s.inText = true) : s.remaining = 0 ↔ s.ended = true := by
  obtain ⟨hbase, hmod, hend⟩ := (inText_iff s).mp h
  rw [State.remaining, State.ended, beq_iff_eq]
  omega

/-! ## The placed word (logs 5 and 6) -/

theorem pcAligned_alignPc (iset : ISet) (pc : Word) : pcAligned iset (alignPc iset pc) = true := by
  rw [pcAligned_iff]
  refine ⟨fun h => ?_, fun h => ?_⟩ <;> subst h <;> rw [alignPc, toNat_append_add] <;> simp

theorem fetches_withText1 (s : State) (iset : ISet) (w : Word) : Fetches (s.withText1 iset w) w := by
  obtain ⟨h4, h2⟩ := (pcAligned_iff iset _).mp (pcAligned_alignPc iset s.pc)
  exact ⟨h4, h2, 0, rfl, rfl⟩

/-- The bytes of a table word decode as the word does. -/
theorem decodeTableWord_eq_some_iff {nbits w : Nat} :
    decodeTableWord nbits w = some i ↔ decodeWord (tableISet (tableWord nbits w)) (tableWord nbits w) = .ok i := by
  have hbytes := decode_bytesOfWord_append (tableISet (tableWord nbits w)) (tableWord nbits w) []
  rw [List.append_nil] at hbytes
  rw [decodeTableWord, hbytes]
  cases decodeWord (tableISet (tableWord nbits w)) (tableWord nbits w) <;> simp

end Sys2Proof.Spec
end

section
/-! SUPPORT. The statements of 70_reset_and_hazards.md, settled. -/

namespace Sys2Proof.Proofs

open Sys2Proof.Machine Sys2Proof.Spec

/-- Settles O43: each step takes one of the remaining instructions, and the invariant of the last state says that none remains
only at the end of the text. -/
theorem runsAreFinite : Obligations.RunsAreFinite := by
  intro s t k hs hrun
  obtain ⟨hpc, hrem⟩ := run_next_advances hrun
  refine ⟨by omega, hpc, ?_⟩
  rw [← remaining_eq_zero_iff_ended (run_keeps_inv hs hrun).text]
  omega

/-- Settles O38: the fetch gives the word, and the step is what the decoder makes of it. -/
theorem stepExecutesTheDecodedInstruction : Obligations.StepExecutesTheDecodedInstruction :=
  fun _ _ hf => ⟨fun _ => step_of_decode_ok hf, fun _ => step_of_decode_reject hf⟩

/-- Settles O40: the placed text holds the word at its aligned pc, and the step decodes it in the set that the table word is
read in. -/
theorem placedWordRuns : Obligations.PlacedWordRuns :=
  fun s _ _ _ h => step_of_decode_ok (fetches_withText1 s _ _) (decodeTableWord_eq_some_iff.mp h)

end Sys2Proof.Proofs
end
